-- ==== Sys2Proof/Word.lean ====
section
/-! DEFINITION. The plain words and indexes of the ZFW-0804: bytes, bus times, and the numbers that
name stations, channels, inputs and bindings (00_scope.md, section 4). -/

namespace Sys2Proof

/-- One byte of a frame or of the configuration memory. -/
abbrev Byte := BitVec 8

/-- Bus time, a 40-bit unsigned count of ticks that wraps (R1; 00_scope.md 4.3). -/
abbrev BusTime := BitVec 40

/-- A station identifier, 0 to 31 (00_scope.md 4.6). -/
abbrev StationId := Fin 32

/-- One of the eight output channels (00_scope.md section 1). -/
abbrev ChannelId := Fin 8

/-- One of the four trigger inputs (00_scope.md section 1). -/
abbrev InputId := Fin 4

/-- One of the sixteen binding entries (R127). -/
abbrev BindingId := Fin 16

end Sys2Proof
end

