-- ==== Sys2Proof/Syntax.lean ====
section
/-! DEFINITION. The commands of the block: one constructor of `Instr` for each row of
spec/opcode_table.json, with the operands the spec gives the event. -/

namespace Sys2Proof

/-- The three destination modes of a good frame (R23). -/
inductive DestMode where
  | station
  | groups
  | all
  deriving DecidableEq, Repr

/-- A good frame as the line controller hands it on: the header fields of R23 other than the kind,
and the payload bytes.  The kind is the command's constructor. -/
structure Frame where
  sender   : StationId
  destMode : DestMode
  dest     : BitVec 16
  stamp    : BusTime
  payload  : List Byte
  deriving DecidableEq, Repr

/-- The commands and events of spec/opcode_table.json.  The frame commands carry the good frame
whose frame end they are; what the frame does is decided by its own bytes and by the state. -/
inductive Instr where
  /-- RESET (R183). -/
  | reset
  /-- RESET_RELEASE (R183). -/
  | resetRelease
  /-- READ_END (R179): the 322 bytes that MDI gave over the read (R178). -/
  | readEnd (block : List Byte)
  /-- JOIN_WINDOW_END (R182): bit n is the level at TINn, for the first sample of R113. -/
  | joinWindowEnd (levels : BitVec 4)
  /-- CARRIER_START (R141). -/
  | carrierStart
  /-- IFG_END (R144). -/
  | ifgEnd
  /-- ROUND_END (R142). -/
  | roundEnd
  /-- TRANSMIT_START (R148). -/
  | transmitStart
  /-- READBACK_MISMATCH (R150). -/
  | readbackMismatch
  /-- OWN_COMPLETE (R151). -/
  | ownComplete
  /-- OWN_ABORTED (R152). -/
  | ownAborted
  /-- BAD_EPISODE (R25). -/
  | badEpisode
  /-- FOREIGN_FRAME (R26). -/
  | foreignFrame
  /-- CLASH (R27). -/
  | clash
  /-- UNJUDGED_FRAME_END (R22). -/
  | unjudgedFrameEnd
  /-- BEACON (R159). -/
  | beacon (f : Frame)
  /-- EDGE (R130). -/
  | edge (f : Frame)
  /-- SCHEDULE (R47). -/
  | schedule (f : Frame)
  /-- STAGE (R102). -/
  | stage (f : Frame)
  /-- RELEASE (R104). -/
  | release (f : Frame)
  /-- CANCEL_QUEUE (R58): a CANCEL whose QUEUE scope bit is set. -/
  | cancelQueue (f : Frame)
  /-- CANCEL_STAGED (R108): a CANCEL whose STAGED scope bit is set. -/
  | cancelStaged (f : Frame)
  /-- CANCEL_OUTPUT (R88): a CANCEL whose OUTPUT scope bit is set. -/
  | cancelOutput (f : Frame)
  /-- CANCEL_NO_SCOPE (R30): a CANCEL with none of the three scope bits set. -/
  | cancelNoScope (f : Frame)
  /-- PROBE_STATUS (R174). -/
  | probeStatus (f : Frame)
  /-- PROBE_PEERS (R160). -/
  | probePeers (f : Frame)
  /-- PROBE_LEADS_LO (R160). -/
  | probeLeadsLo (f : Frame)
  /-- PROBE_LEADS_HI (R160). -/
  | probeLeadsHi (f : Frame)
  /-- PROBE_QUEUE (R65). -/
  | probeQueue (f : Frame)
  /-- PROBE_IGNORED (R171): a PROBE that the latch does not accept. -/
  | probeIgnored (f : Frame)
  /-- CLEAR (R168). -/
  | clear (f : Frame)
  /-- RESTART (R184). -/
  | restart (f : Frame)
  /-- REPORT (R30): a REPORT from another station. -/
  | report (f : Frame)
  /-- UNKNOWN_KIND (R30): a good frame of kind 0 or 11 to 15. -/
  | unknownKind (kind : BitVec 4) (f : Frame)
  /-- INPUT_EDGE (R115): the sample of TINn at this level that completes an accepted change of a
  selected direction. -/
  | inputEdge (input : InputId) (level : Bool)
  /-- DUE_DELIVERY (R53): the tick of bus time. -/
  | dueDelivery
  /-- ON_PHASE_EXPIRY (R74). -/
  | onPhaseExpiry (channel : ChannelId)
  /-- OFF_PHASE_EXPIRY (R75). -/
  | offPhaseExpiry (channel : ChannelId)
  /-- RECOVER_EXPIRY (R77). -/
  | recoverExpiry (channel : ChannelId)
  /-- BEACON_TIMER_EXPIRY (R139). -/
  | beaconTimerExpiry
  /-- ANNOUNCED_TIMER_EXPIRY (R147). -/
  | announcedTimerExpiry
  /-- SILENCE_TIMER_EXPIRY (R158). -/
  | silenceTimerExpiry (peer : StationId)
  /-- CANDIDATE_EXPIRY (R15). -/
  | candidateExpiry
  /-- STAGE_LAPSE (R106). -/
  | stageLapse (channel : ChannelId)
  /-- INPUT_SAMPLE (R114): the level that TINn shows at the sample instant. -/
  | inputSample (input : InputId) (level : Bool)
  /-- DELIMITER_FOUND (R4). -/
  | delimiterFound
  /-- DELIMITER_SEARCH_ENDED (R21). -/
  | delimiterSearchEnded
  deriving DecidableEq, Repr

end Sys2Proof
end

