-- ==== Sys2Proof/Decode.lean ====
section
/-! DEFINITION. The reader of command words.  No row of spec/opcode_table.json gives bits, so no word
spells a command.  The codec between received line bytes and frame commands (R23 to R27) is in
Machine/Codec.lean. -/

namespace Sys2Proof

/-- The command that a word spells by the table's bits: none, since no row of the table has bits. -/
def decodeTableWord (_nbits _w : Nat) : Option Instr := none

end Sys2Proof
end

