-- ==== Sys2Proof/Machine/Records.lean ====
section
/-! DEFINITION. The records the blocks hold: programs, cue entries, staged firings, captures, bindings,
channel contexts, peer entries, requests and snapshots. -/

namespace Sys2Proof.Machine

/-! ### Programs -/

/-- The six valid program kinds (R68). -/
inductive ProgramKind where
  | pulse
  | retrig
  | train
  | square
  | levelOn
  | levelOff
  deriving DecidableEq, Repr

/-- A program record (R68): a kind and the fields every kind carries. -/
structure Program where
  kind   : ProgramKind
  width  : BitVec 24
  period : BitVec 24
  count  : BitVec 16
  deriving DecidableEq, Repr

/-- A program as the 9-byte layout carries it, its kind still a code (R33). -/
structure RawProgram where
  kindCode : Byte
  width    : BitVec 24
  period   : BitVec 24
  count    : BitVec 16
  deriving DecidableEq, Repr

/-! ### The cue queue -/

/-- Where a firing came from (R37). -/
inductive Origin where
  | message (sender : StationId)
  | binding (index : BindingId)
  deriving DecidableEq, Repr

/-- The part of a cue that its check bits cover (R37). -/
structure CueContent where
  channel : ChannelId
  program : Program
  origin  : Origin
  tag     : Byte
  deriving DecidableEq, Repr

/-- A firing offered to the cue queue (R41): a fire time and the content of the entry it would make. -/
structure Firing where
  fireTime : BusTime
  content  : CueContent
  deriving DecidableEq, Repr

/-- A stored entry of the cue queue (R37).  `check` is the content that the entry's check bits were
computed over; how two contents' check bits compare is open (log 5). -/
structure CueEntry where
  fireTime : BusTime
  content  : CueContent
  check    : CueContent
  deriving DecidableEq, Repr

/-- A scope of a CANCEL that can stand on either side of a due delivery (R58, R88, R95). -/
inductive CancelScope where
  | queue
  | output
  deriving DecidableEq, Repr

/-- The scope of a CANCEL that waits for the delivery of its instant (R59, R95; log 26), with what the
CANCEL hands to its owner. -/
structure ScopeLeft where
  scope  : CancelScope
  sender : StationId
  set    : Byte
  tag    : Byte
  deriving DecidableEq, Repr

/-! ### Staging slots -/

/-- A staged firing, the content of a filled staging slot (R100). -/
structure Staged where
  stager   : StationId
  tag      : Byte
  offset   : BitVec 32
  program  : Program
  lifetime : Nat
  deriving DecidableEq, Repr

/-! ### Channels -/

/-- The channel states of R71 with the phase timer that ON, OFF and RECOVER carry. -/
inductive Phase where
  | idle
  | on (timer : Nat)
  | off (timer : Nat)
  | recover (timer : Nat)
  | hold
  deriving DecidableEq, Repr

/-- A firing waiting in a pending slot (R71). -/
structure Waiting where
  program : Program
  late    : Bool
  deriving DecidableEq, Repr

/-- A channel context (R71); the running kind is the kind of `running`. -/
structure Channel where
  phase       : Phase
  running     : Option Program
  remaining   : Option Nat
  waiting     : Option Waiting
  late        : Bool
  overwritten : Bool
  deriving DecidableEq, Repr

/-- The condition every reset leaves a channel in (R98). -/
def Channel.atReset : Channel := ⟨.idle, none, none, none, false, false⟩

/-! ### Inputs -/

/-- A capture (R116). -/
structure Capture where
  time    : BusTime
  rising  : Bool
  count   : Byte
  overrun : Bool
  deriving DecidableEq, Repr

/-- The filled capture slot: a capture and its in-flight marker (R112). -/
structure CaptureSlot where
  capture  : Capture
  inFlight : Bool
  deriving DecidableEq, Repr

/-- A run in progress in the filter: its samples and the bus time of the first (R112). -/
structure Run where
  samples : Nat
  since   : BusTime
  deriving DecidableEq, Repr

/-- An input context (R112), with the local ticks to the next sample instant (R113). -/
structure Input where
  stable      : Option Bool
  run         : Option Run
  edgeCount   : Byte
  slot        : Option CaptureSlot
  followOn    : Option Capture
  sampleTimer : Option Nat
  deriving DecidableEq, Repr

/-- The condition every reset leaves an input in (R126). -/
def Input.atReset : Input := ⟨none, none, 0, none, none, none⟩

/-- Which directions of accepted change are edges (R111). -/
inductive EdgeSelect where
  | off
  | rise
  | fall
  | both
  deriving DecidableEq, Repr

/-! ### Bindings -/

/-- The source of a binding entry (R127). -/
inductive Source where
  | any
  | station (id : StationId)
  deriving DecidableEq, Repr

/-- The fields of an enabled binding entry that its parity covers (R127).  The edge of a valid entry is
RISE, FALL or BOTH. -/
structure BindingContent where
  source  : Source
  input   : InputId
  edge    : EdgeSelect
  divider : Nat
  phase   : Nat
  channel : ChannelId
  delay   : BitVec 24
  program : Program
  deriving DecidableEq, Repr

/-- An enabled binding entry.  `parity` is the content that its parity was computed over (log 5). -/
structure Binding where
  content : BindingContent
  parity  : BindingContent
  deriving DecidableEq, Repr

/-- An edge report as the binding table reads it (R130). -/
structure EdgeReport where
  input  : InputId
  rising : Bool
  count  : Byte
  time   : BusTime
  deriving DecidableEq, Repr

/-! ### Peers -/

/-- The presence of a peer (R156); a PRESENT entry carries its running silence timer. -/
inductive Presence where
  | absent
  | present (silence : Nat)
  | silent
  deriving DecidableEq, Repr

/-- A beacon summary (R156). -/
structure Summary where
  life   : Byte
  faults : BitVec 16
  deriving DecidableEq, Repr

/-- A peer entry (R156). -/
structure Peer where
  presence : Presence
  lead     : BitVec 16
  lost     : Bool
  summary  : Option Summary
  deriving DecidableEq, Repr

/-- The condition every reset leaves a peer entry in (R162). -/
def Peer.atReset : Peer := ⟨.absent, 0, false, none⟩

/-! ### Access to the line -/

/-- A request of the transmit list (R137). -/
inductive Request where
  | edge (input : InputId)
  | report
  | beacon
  deriving DecidableEq, Repr

/-- The round mode (R142). -/
inductive RoundMode where
  | normal
  | openRound
  deriving DecidableEq, Repr

/-- The order of a round as fixed at the end of its IFG (R144). -/
structure RoundOrder where
  mode      : RoundMode
  reference : Nat
  compact   : List StationId
  deriving DecidableEq, Repr

/-- The round in progress (R141): the ticks since its anchor and, after its IFG, its order. -/
structure Round where
  elapsed : Nat
  order   : Option RoundOrder
  deriving DecidableEq, Repr

/-- The station's own transmission (R149): the bytes after the delimiter, whether LTXE is driven
(R150), and the ticks left to the frame end of an undisturbed frame (R22). -/
structure Transmission where
  bytes   : List Byte
  driving : Bool
  left    : Nat
  deriving DecidableEq, Repr

/-- The carrier episode as the line controller holds it (R21, R22, R4, R149). -/
inductive Episode where
  /-- no carrier episode in progress -/
  | quiet
  /-- carrier, delimiter not yet found; the ticks left of the 32 bit times (R21) -/
  | searching (left : Nat)
  /-- delimiter found at this arrival capture (R4) -/
  | captured (arrival : BusTime)
  /-- the search has ended without a delimiter (R21) -/
  | fragment
  /-- in progress when the station entered JOINING (R22) -/
  | unjudged
  /-- the station is transmitting (R149) -/
  | own (t : Transmission)
  deriving DecidableEq, Repr

/-! ### Timebase and fault unit -/

/-- The timebase states (R7). -/
inductive SyncState where
  | unsynced
  | synced
  deriving DecidableEq, Repr

/-- The far-time candidate (R11): its lead and the local ticks left to its expiry. -/
structure Candidate where
  lead   : Int
  expiry : Nat
  deriving DecidableEq, Repr

/-- The life states (R178 to R182). -/
inductive LifeState where
  | loading
  | unconfigured
  | joining
  | running
  deriving DecidableEq, Repr

/-- The thirteen fault flags (R163). -/
inductive Flag where
  | queueFull
  | cueRejected
  | staleCue
  | lateFire
  | timeJump
  | timeConflict
  | storeParity
  | captureOverrun
  | txDropped
  | idClash
  | stageLapsed
  | lineError
  | bindingRejected
  deriving DecidableEq, Repr

/-- The last reject reasons (R167). -/
inductive RejectReason where
  | noReason
  | badChannel
  | badProgram
  | tooFar
  | stale
  | queueFull
  | malformed
  deriving DecidableEq, Repr

/-- The selectors of a PROBE (R174, R175). -/
inductive Selector where
  | status
  | peers
  | leadsLo
  | leadsHi
  | queue
  deriving DecidableEq, Repr

/-- A snapshot in the snapshot latch (R171). -/
structure Snapshot where
  probeId  : Byte
  prober   : StationId
  selector : Selector
  body     : List Byte
  deriving DecidableEq, Repr

end Sys2Proof.Machine
end

