-- ==== Sys2Proof/Config.lean ====
section
/-! DEFINITION. What is fixed for the part (its constants), what a load fixes for the station (the values of
the configuration block), and the free values that the spec leaves open. -/

namespace Sys2Proof.Machine

/-! ### Constants of the part -/

/-- A coarse unit is 1024 ticks (00_scope.md 4.2). -/
abbrev Config.coarse : Nat := 1024

/-- The horizon, 2^31 ticks (00_scope.md 4.3, R2). -/
abbrev Config.horizon : Nat := 2 ^ 31

/-- The capacity of the cue queue (R38). -/
abbrev Config.queueCapacity : Nat := 32

/-- The length of the memory read in ticks: 2,600 cycles of 8 ticks (R178). -/
abbrev Config.readTicks : Nat := 20800

/-- The bytes of the configuration block (R35, R178). -/
abbrev Config.blockBytes : Nat := 322

/-- What a configuration memory that does not answer reads as (R35, R178). -/
abbrev Config.absentByte : Byte := 0xFF

/-! ### Values a load gives the blocks -/

/-- The configuration of one input (R111): P in ticks and K. -/
structure InputConfig where
  select : EdgeSelect
  period : Nat
  count  : Nat
  deriving DecidableEq, Repr

/-- The configuration of one channel (R70). -/
structure ChannelConfig where
  enabled   : Bool
  activeLow : Bool
  gap       : Nat
  deriving DecidableEq, Repr

/-- The values the blocks take from a valid configuration block (R181), durations in ticks unless the
spec keeps them in bit times. -/
structure Params where
  ownId           : StationId
  slots           : Nat
  groups          : BitVec 16
  rate            : Fin 4
  ifg             : Nat
  slotTime        : Nat
  lineDelay       : Nat
  slack           : Nat
  stepLimit       : Nat
  confirmWindow   : Nat
  lateWindow      : Nat
  beaconInterval  : Nat
  silenceFactor   : Nat
  joinWindow      : Nat
  stagingLifetime : Nat
  inputs          : Vector InputConfig 4
  channels        : Vector ChannelConfig 8
  deriving DecidableEq, Repr

/-- What stands in for discarded configuration values between a reset and the next load.
DESIGN CHOICE (log 7), unsafe: the spec gives no value; no rule reads one before the load has put it there. -/
def Params.discarded : Params where
  ownId := 0
  slots := 0
  groups := 0
  rate := 0
  ifg := 0
  slotTime := 0
  lineDelay := 0
  slack := 0
  stepLimit := 0
  confirmWindow := 0
  lateWindow := 0
  beaconInterval := 0
  silenceFactor := 0
  joinWindow := 0
  stagingLifetime := 0
  inputs := Vector.replicate 4 ⟨.off, 0, 0⟩
  channels := Vector.replicate 8 ⟨false, false, 0⟩

/-! ### Free values -/

/-- The free order of the events of one instant (log 2): each value says where one event stands among
the others.  Open: R45, R60 to R64, R90 to R95 and the other coincidence rules allow either order. -/
opaque Config.order : Nat → Nat

/-- The scope of a CANCEL with QUEUE and OUTPUT scope, if any, that the delivery of the same instant comes
before while the other scope comes first, by the counter of free orders and the bus time (log 26).  Open: R59
puts the scopes in no order and lets a firing slip between them. -/
opaque Config.scopeWaits : Nat → BusTime → Option CancelScope

/-- Whether the check bits computed over the first content also fit the second, different one (R37,
R54 give no check function; log 5). -/
opaque Config.checkCollides : CueContent → CueContent → Bool

/-- Whether the parity computed over the first content also fits the second, different one (R127, R133
give no parity function; log 5). -/
opaque Config.parityCollides : BindingContent → BindingContent → Bool

/-- The level of MDO after the 24 command and address bits, by the number of the bit (R178 gives none;
log 12). -/
opaque Config.mdoInData : Nat → Bool

/-- The tick of a cycle of the memory read at which MCK rises (R178 gives the cycle, not its phase;
log 12). -/
opaque Config.mckRise : Fin 8

/-- The ticks for which MCK stays high in each cycle, less one: 1 to 7 of the 8 (R178 gives no duty;
log 12). -/
opaque Config.mckHigh : Fin 7

/-- The delay of MDO behind the falling edge of MCK, reduced to the ticks before the next rising edge
(R178 gives none; log 12). -/
opaque Config.mdoDelay : Nat

end Sys2Proof.Machine
end

