-- ==== Sys2Proof/Machine/State.lean ====
section
/-! DEFINITION. The state of the station, block by block (00_scope.md section 2), the machine right after
reset, and the reasons a step can stop. -/

namespace Sys2Proof.Machine

/-- The pins in, the carrier on the line and the attached configuration memory: what the station reads
but does not hold (00_scope.md section 3). -/
structure External where
  /-- the level at TIN0 to TIN3 -/
  tin     : Vector Bool 4
  /-- carrier stands on the line (R22) -/
  carrier : Bool
  /-- the configuration memory in canonical form; an unlisted address reads as FFh (R35, log 9) -/
  memory  : List Host.Cell
  deriving DecidableEq, Repr

/-- The loader (chapter 11). -/
structure Loader where
  life     : LifeState
  /-- RESET asserted, or power-on before the first tick (R183) -/
  held     : Bool
  /-- ticks left of the memory read (R178) -/
  readLeft : Option Nat
  /-- the bits shifted in so far from MDI, in their order; none outside a read (R178) -/
  shift    : List Bool
  /-- the block as read (R178) -/
  block    : List Byte
  /-- ticks left of the join window (R181) -/
  joinLeft : Option Nat
  deriving DecidableEq, Repr

/-- The timebase (chapter 1). -/
structure Timebase where
  busTime   : BusTime
  sync      : SyncState
  candidate : Option Candidate
  deriving DecidableEq, Repr

/-- The line controller (chapters 2 and 8). -/
structure Line where
  episode        : Episode
  txList         : List Request
  attempts       : Nat
  beaconTimer    : Option Nat
  /-- the announced flag's timer; the flag is set exactly while it is present (R147) -/
  announcedTimer : Option Nat
  lastSender     : Option StationId
  mode           : RoundMode
  round          : Option Round
  deriving DecidableEq, Repr

/-- The fault unit (chapter 10). -/
structure FaultUnit where
  flags  : BitVec 13
  mask   : BitVec 13
  reason : RejectReason
  latch  : Option Snapshot
  deriving DecidableEq, Repr

/-- The whole station, the commands that wait, and the model's own fields (log 2, log 26). -/
structure State where
  /-- the commands that wait, first in, first out -/
  pending  : List Instr
  ext      : External
  /-- the model's own: how many free orders have been taken (log 2) -/
  choice   : Nat
  /-- the model's own: the scope of a CANCEL that waits for the delivery of its instant (log 26) -/
  scopeLeft : Option ScopeLeft
  loader   : Loader
  /-- the values of the last successful load (R181) -/
  cfg      : Params
  timebase : Timebase
  line     : Line
  peers    : Vector Peer 32
  inputs   : Vector Input 4
  bindings : Vector (Option Binding) 16
  queue    : List CueEntry
  staging  : Vector (Option Staged) 8
  channels : Vector Channel 8
  faults   : FaultUnit
  deriving DecidableEq, Repr

/-- The loader at its reset value (R183): LOADING, held, no read begun. -/
def Loader.atReset : Loader := ⟨.loading, true, none, [], [], none⟩

/-- The timebase at its reset value (R19). -/
def Timebase.atReset : Timebase := ⟨0, .unsynced, none⟩

/-- The medium-access state at its reset value (R154). -/
def Line.atReset : Line := ⟨.quiet, [], 0, none, none, none, .openRound, none⟩

/-- The fault unit after power-on or the RESET line (R177). -/
def FaultUnit.atReset : FaultUnit := ⟨0, 0, .noReason, none⟩

/-- What stands outside at power-on: inputs low, a quiet line, no memory attached.
DESIGN CHOICE (log 8), unsafe: the spec gives the outside no reset value. -/
def External.atPowerOn : External := ⟨Vector.replicate 4 false, false, []⟩

/-- The machine right after reset (R183 and the reset rules R19, R66, R98, R110, R126, R129, R154,
R162, R177). -/
def State.reset : State where
  pending := []
  ext := External.atPowerOn
  choice := 0
  scopeLeft := none
  loader := Loader.atReset
  cfg := Params.discarded
  timebase := Timebase.atReset
  line := Line.atReset
  peers := Vector.replicate 32 Peer.atReset
  inputs := Vector.replicate 4 Input.atReset
  bindings := Vector.replicate 16 none
  queue := []
  staging := Vector.replicate 8 none
  channels := Vector.replicate 8 Channel.atReset
  faults := FaultUnit.atReset

/-- The reasons a step can fault.  There is none: no rule of the spec makes the part stop (log 19). -/
inductive Fault where
  deriving DecidableEq, Repr

/-- The reasons a command has no meaning. -/
inductive Refusal where
  /-- Raised by a dispatch arm whose command has no meaning yet, and by nothing else; safe, since the
  model stops where the part goes on.  No arm raises it now. -/
  | notModelled (mnemonic : String)
  deriving DecidableEq, Repr

/-- The three outcomes of a step of this machine. -/
abbrev Result := Host.Outcome State Fault Refusal

end Sys2Proof.Machine
end

