-- ==== Sys2Proof/Machine/Ops.lean ====
section
/-! DEFINITION. The named operations over the state: one update per field, the reading of the attached
memory, timers, families indexed by a Fin, and the life-state and mute tests every block uses. -/

namespace Sys2Proof.Machine

/-! ### One update per field -/

/-- Replace the queue of waiting commands. -/
def State.withPending (s : State) (v : List Instr) : State := { s with pending := v }
/-- Replace what stands outside the station. -/
def State.withExt (s : State) (v : External) : State := { s with ext := v }
/-- Replace the counter of free orders. -/
def State.withChoice (s : State) (v : Nat) : State := { s with choice := v }
/-- Replace the scope that waits for a delivery. -/
def State.withScopeLeft (s : State) (v : Option ScopeLeft) : State := { s with scopeLeft := v }
/-- Replace the loader. -/
def State.withLoader (s : State) (v : Loader) : State := { s with loader := v }
/-- Replace the loaded configuration values. -/
def State.withCfg (s : State) (v : Params) : State := { s with cfg := v }
/-- Replace the timebase. -/
def State.withTimebase (s : State) (v : Timebase) : State := { s with timebase := v }
/-- Replace the line controller. -/
def State.withLine (s : State) (v : Line) : State := { s with line := v }
/-- Replace the peer table. -/
def State.withPeers (s : State) (v : Vector Peer 32) : State := { s with peers := v }
/-- Replace the input unit. -/
def State.withInputs (s : State) (v : Vector Input 4) : State := { s with inputs := v }
/-- Replace the binding table. -/
def State.withBindings (s : State) (v : Vector (Option Binding) 16) : State := { s with bindings := v }
/-- Replace the cue queue. -/
def State.withQueue (s : State) (v : List CueEntry) : State := { s with queue := v }
/-- Replace the staging slots. -/
def State.withStaging (s : State) (v : Vector (Option Staged) 8) : State := { s with staging := v }
/-- Replace the channel contexts. -/
def State.withChannels (s : State) (v : Vector Channel 8) : State := { s with channels := v }
/-- Replace the fault unit. -/
def State.withFaults (s : State) (v : FaultUnit) : State := { s with faults := v }

/-! ### Families -/

/-- Apply `f` to every member of a family, told its index. -/
def mapFamily {α β : Type} {n : Nat} (f : Fin n → α → β) (v : Vector α n) : Vector β n :=
  Vector.ofFn fun i => f i v[i]

/-- The members of a byte-wide set, ascending (00_scope.md 4.7). -/
def channelsOf (set : Byte) : List ChannelId :=
  (List.finRange 8).filter fun c => set.getLsbD c.val

/-! ### Timers -/

/-- One local tick of a running timer: it counts down and stands at zero until its expiry is taken. -/
def tickTimer (t : Option Nat) : Option Nat := t.map fun n => n - 1

/-- A timer has reached zero. -/
def expired (t : Option Nat) : Bool := decide (t = some 0)

/-! ### The attached configuration memory (R178, R35) -/

/-- The byte the attached memory gives at an address: a cell it lists, or all ones. -/
def memoryByte (m : List Host.Cell) (a : Nat) : Byte :=
  match m with
  | [] => Config.absentByte
  | c :: rest => if c.1 = a then c.2 else memoryByte rest a

/-- The 322 bytes that a read from address 0 shifts in (R178). -/
def memoryBlock (m : List Host.Cell) : List Byte :=
  (List.range Config.blockBytes).map (memoryByte m)

/-- The canonical memory that holds the given bytes from an address on: the way the outside writes a
configuration memory down.  The part itself never writes it (R178). -/
def memoryOf (a : Nat) : List Byte → List Host.Cell
  | [] => []
  | b :: rest => if b = Config.absentByte then memoryOf (a + 1) rest else (a, b) :: memoryOf (a + 1) rest

/-- The canonical form from a lower bound on: addresses strictly rising and no byte that an unlisted
address reads as. -/
def memoryFormFrom (lo : Nat) : List Host.Cell → Bool
  | [] => true
  | c :: rest => decide (lo ≤ c.1) && decide (c.2 ≠ Config.absentByte) && memoryFormFrom (c.1 + 1) rest

/-- The canonical form of a memory. -/
def Memory.wf (m : List Host.Cell) : Bool := memoryFormFrom 0 m

/-! ### Tests every block uses -/

/-- Mute holds exactly while ID_CLASH, flag 9, is set (R169). -/
def State.mute (s : State) : Bool := s.faults.flags.getLsbD 9

/-- The receiver is active and rounds are kept while the station is JOINING or RUNNING (R22, R141). -/
def State.active (s : State) : Bool :=
  match s.loader.life with
  | .loading => false
  | .unconfigured => false
  | .joining => true
  | .running => true

/-- The station is RUNNING. -/
def State.isRunning (s : State) : Bool := decide (s.loader.life = .running)

/-- The announced flag (R147). -/
def State.announced (s : State) : Bool := s.line.announcedTimer.isSome

/-- The silence time: the beacon interval times the silence factor, in ticks (R147, R156). -/
def Params.silenceTime (p : Params) : Nat := p.beaconInterval * p.silenceFactor

/-- One bit time in ticks (00_scope.md 4.5). -/
def Params.bitTicks (p : Params) : Nat :=
  match p.rate with
  | 0 => 20
  | 1 => 10
  | 2 => 4
  | 3 => 2

/-! ### The transmit list (R137) -/

/-- A request is offered to the transmit list: it joins at the tail while the station is RUNNING and not
mute, unless one of its kind already stands (R137). -/
def State.join (r : Request) (s : State) : State :=
  if s.isRunning && !s.mute && !decide (r ∈ s.line.txList) then
    s.withLine { s.line with txList := s.line.txList ++ [r] }
  else s

/-- The head request leaves the list and the attempt count returns to 0 (R138). -/
def State.popHead (s : State) : State :=
  s.withLine { s.line with txList := s.line.txList.tail, attempts := 0 }

end Sys2Proof.Machine
end

