-- ==== Sys2Proof/Machine/Operands.lean ====
section
/-! DEFINITION. The operand forms: byte order, the time arithmetic of bus times, the 9-byte program layout
and the payload fields of the request frames (R2, R32, R33, R36). -/

namespace Sys2Proof.Machine

/-! ### Bytes, most significant first (00_scope.md 4.4) -/

/-- Byte i of a field, zero past its end. -/
def byteAt (l : List Byte) (i : Nat) : Byte := l.getD i 0

/-- The 16-bit field at byte i. -/
def field16 (l : List Byte) (i : Nat) : BitVec 16 := byteAt l i ++ byteAt l (i + 1)

/-- The 24-bit field at byte i. -/
def field24 (l : List Byte) (i : Nat) : BitVec 24 := byteAt l i ++ byteAt l (i + 1) ++ byteAt l (i + 2)

/-- The 32-bit field at byte i. -/
def field32 (l : List Byte) (i : Nat) : BitVec 32 :=
  byteAt l i ++ byteAt l (i + 1) ++ byteAt l (i + 2) ++ byteAt l (i + 3)

/-- The 40-bit field at byte i. -/
def field40 (l : List Byte) (i : Nat) : BitVec 40 :=
  byteAt l i ++ byteAt l (i + 1) ++ byteAt l (i + 2) ++ byteAt l (i + 3) ++ byteAt l (i + 4)

/-- The two bytes of a 16-bit field. -/
def bytes16 (x : BitVec 16) : List Byte := [x.extractLsb' 8 8, x.extractLsb' 0 8]

/-- The five bytes of a 40-bit field. -/
def bytes40 (x : BitVec 40) : List Byte :=
  [x.extractLsb' 32 8, x.extractLsb' 24 8, x.extractLsb' 16 8, x.extractLsb' 8 8, x.extractLsb' 0 8]

/-- A bit of a byte at a place. -/
def bitAt (place : Nat) (b : Bool) : Byte := if b then 1#8 <<< place else 0

/-! ### Bus time (R1, R2) -/

/-- The signed difference of two bus times: modulo 2^40, read in two's complement (R2). -/
def signedDiff (a b : BusTime) : Int := (a - b).toInt

/-- "A is later than B" (00_scope.md 4.3). -/
def later (a b : BusTime) : Bool := decide (0 < signedDiff a b)

/-- Bus time moved forward by a lead, modulo 2^40 (R1). -/
def advance (t : BusTime) (n : Int) : BusTime := t + BitVec.ofInt 40 n

/-- The lead of a frame (R5): its stamp plus the line delay, less its arrival capture. -/
def leadOf (stamp : BusTime) (lineDelay : Nat) (arrival : BusTime) : Int :=
  signedDiff (stamp + BitVec.ofNat 40 lineDelay) arrival

/-- A lead saturated to 16 bits (R157). -/
def saturate (lead : Int) : BitVec 16 := BitVec.ofInt 16 (max (-32768) (min 32767 lead))

/-! ### Programs (R33, R68, R69) -/

/-- The program at byte i in the 9-byte layout (R33). -/
def rawProgramAt (l : List Byte) (i : Nat) : RawProgram :=
  ⟨byteAt l i, field24 l (i + 1), field24 l (i + 4), field16 l (i + 7)⟩

/-- A raw program of a known kind. -/
def RawProgram.withKind (r : RawProgram) (k : ProgramKind) : Program := ⟨k, r.width, r.period, r.count⟩

/-- The program when it is valid for its kind, none when it is not (R69). -/
def RawProgram.judge (r : RawProgram) : Option Program :=
  match r.kindCode.toNat with
  | 1 => if 1 ≤ r.width.toNat then some (r.withKind .pulse) else none
  | 2 => if 1 ≤ r.width.toNat then some (r.withKind .retrig) else none
  | 3 =>
    if 1 ≤ r.width.toNat ∧ r.width.toNat ≤ 16777214 ∧ r.width.toNat + 1 ≤ r.period.toNat then
      some (r.withKind .train) else none
  | 4 => if 2 ≤ r.period.toNat then some (r.withKind .square) else none
  | 5 => some (r.withKind .levelOn)
  | 6 => some (r.withKind .levelOff)
  | _ => none

/-- The code of a running kind (R174). -/
def kindCode : ProgramKind → Byte
  | .pulse => 1
  | .retrig => 2
  | .train => 3
  | .square => 4
  | .levelOn => 5
  | .levelOff => 6

/-! ### Payloads (R31, R32, R34) -/

/-- The form check of a SCHEDULE: 17 bytes and time mode 0 or 1 (R31). -/
def scheduleFormOk (p : List Byte) : Bool :=
  decide (p.length = 17) && (decide (byteAt p 2 = 0) || decide (byteAt p 2 = 1))

/-- The fire time of a SCHEDULE by its time mode (R46). -/
def scheduleFireTime (f : Frame) : BusTime :=
  if byteAt f.payload 2 = 0 then field40 f.payload 3
  else f.stamp + (field32 f.payload 4).setWidth 40

/-- The edge report an EDGE payload carries (R130). -/
def edgeReportOf (p : List Byte) : EdgeReport where
  input := ((byteAt p 0).extractLsb' 6 2).toFin
  rising := (byteAt p 0).getLsbD 5
  count := byteAt p 1
  time := field40 p 2

/-- The selector of a PROBE payload, when its code is known (R171). -/
def selectorOf (code : Byte) : Option Selector :=
  match code.toNat with
  | 1 => some .status
  | 2 => some .peers
  | 3 => some .leadsLo
  | 4 => some .leadsHi
  | 5 => some .queue
  | _ => none

/-- The code of a selector (R174, R175). -/
def selectorCode : Selector → Byte
  | .status => 1
  | .peers => 2
  | .leadsLo => 3
  | .leadsHi => 4
  | .queue => 5

end Sys2Proof.Machine
end

