-- ==== Sys2Proof/Machine/Codec.lean ====
section
/-! DEFINITION. Frames on the line (chapter 2): the frame check, the header, the bits of a frame, the judgment of
a received episode, and the command of the table that the frame end of an episode is. -/

namespace Sys2Proof.Machine

/-! ### The frame check (R24) -/

/-- One bit of the CRC with generator x^16 + x^12 + x^5 + 1 (R24). -/
def crcBit (c : BitVec 16) : BitVec 16 := if c.msb then (c <<< 1) ^^^ 0x1021 else c <<< 1

/-- n bits of the CRC. -/
def crcBits : Nat → BitVec 16 → BitVec 16
  | 0, c => c
  | n + 1, c => crcBits n (crcBit c)

/-- One byte of the CRC, most significant bit first (R24). -/
def crcByte (c : BitVec 16) (b : Byte) : BitVec 16 := crcBits 8 (c ^^^ (b.setWidth 16 <<< 8))

/-- The CRC of R24: the register starts at FFFFh and is not inverted at the end. -/
def crc16 (l : List Byte) : BitVec 16 := l.foldl crcByte 0xFFFF

/-! ### Building a frame (R23, R34) -/

/-- The code of a destination mode (R23). -/
def modeCode : DestMode → BitVec 2
  | .station => 0
  | .groups => 1
  | .all => 2

/-- The destination mode of a code; 3 is invalid (R23). -/
def modeOf (code : BitVec 2) : Option DestMode :=
  match code with
  | 0 => some .station
  | 1 => some .groups
  | 2 => some .all
  | 3 => none

/-- The header and payload bytes of a frame (R23). -/
def frameBody (kind : BitVec 4) (f : Frame) : List Byte :=
  [kind ++ modeCode f.destMode ++ 0#2, BitVec.ofNat 8 f.sender.val] ++ bytes16 f.dest ++ bytes40 f.stamp
    ++ [BitVec.ofNat 8 f.payload.length] ++ f.payload

/-- The bytes of a frame after its delimiter, the frame check last (R24, R34). -/
def frameBytes (kind : BitVec 4) (f : Frame) : List Byte :=
  frameBody kind f ++ bytes16 (crc16 (frameBody kind f))

/-! ### Reading a frame (R23, R25) -/

/-- The must-zero bits of bytes 0 and 1 are zero (R23, R25 condition 5). -/
def mustZeroOk (b0 b1 : Byte) : Bool := decide (b0.extractLsb' 0 2 = 0) && decide (b1.extractLsb' 5 3 = 0)

/-- Conditions 4 and 6 of R25 on the received bytes, given byte 9 and the bytes that follow it. -/
def lengthAndCheckOk (all : List Byte) (len : Byte) (rest : List Byte) : Bool :=
  decide (len.toNat ≤ 64) && decide (rest.length = len.toNat + 2) &&
    decide (crc16 (all.take (all.length - 2)) = field16 all (all.length - 2))

/-- The kind and the frame that the bytes after the delimiter carry, when conditions 3 to 6 of R25
hold; none when they fail. -/
def readFrame (l : List Byte) : Option (BitVec 4 × Frame) :=
  match l with
  | b0 :: b1 :: d0 :: d1 :: t0 :: t1 :: t2 :: t3 :: t4 :: len :: rest =>
    if mustZeroOk b0 b1 && lengthAndCheckOk l len rest then
      match modeOf (b0.extractLsb' 2 2) with
      | none => none
      | some mode => some (b0.extractLsb' 4 4,
          ⟨(b1.extractLsb' 0 5).toFin, mode, d0 ++ d1, t0 ++ t1 ++ t2 ++ t3 ++ t4, rest.take len.toNat⟩)
    else none
  | _ => none

/-! ### The bits on the line (R20, R21) -/

/-- The bits of a byte, most significant first (R20; 00_scope.md 4.4). -/
def byteBits (b : Byte) : List Bool :=
  [b.getLsbD 7, b.getLsbD 6, b.getLsbD 5, b.getLsbD 4, b.getLsbD 3, b.getLsbD 2, b.getLsbD 1, b.getLsbD 0]

/-- The preamble: 16 alternating bits, one first (R21). -/
def preambleBits : List Bool := (List.replicate 8 [true, false]).flatten

/-- The start delimiter 6Bh (R21). -/
def delimiterBits : List Bool := byteBits 0x6B

/-- All the bits of a frame on the line (R21). -/
def lineBits (bytes : List Byte) : List Bool := preambleBits ++ delimiterBits ++ bytes.flatMap byteBits

/-- The levels of the two halves of a bit: a one is low then high, a zero high then low (R20). -/
def halfLevels (b : Bool) : List Bool := [!b, b]

/-- The levels of a frame on the line, half bit by half bit (R20, R21). -/
def lineLevels (bytes : List Byte) : List Bool := (lineBits bytes).flatMap halfLevels

/-- The levels up to the half bit that follows the last transition: the level held after it, up to the frame
end, belongs to no bit (R20). -/
def untilLastTransition : List Bool → List Bool
  | [] => []
  | a :: rest => if rest.all fun b => decide (b = a) then [a] else a :: untilLastTransition rest

/-- The levels of the start delimiter (R21). -/
def delimiterLevels : List Bool := delimiterBits.flatMap halfLevels

/-- The levels that follow the first run of eight bits equal to 6Bh (R21), when there is one.  A run of
mid-bit transitions gives the bit timing, so the run is looked for at every half bit (R20; log 11). -/
def afterDelimiter : List Bool → Option (List Bool)
  | [] => none
  | a :: rest =>
    if (a :: rest).take 16 = delimiterLevels then some ((a :: rest).drop 16) else afterDelimiter rest

/-- The bits that a run of levels carries, each the level after the transition at its middle; none when a bit
time has no such transition, a coding violation (R20). -/
def bitsOfLevels : List Bool → Option (List Bool)
  | [] => some []
  | a :: b :: rest => if a = b then none else (bitsOfLevels rest).map fun l => b :: l
  | _ :: _ => none

/-- Eight bits as a byte, most significant first. -/
def byteOfBits (l : List Bool) : Byte := BitVec.ofNat 8 (l.foldl (fun n b => 2 * n + b.toNat) 0)

/-- The whole bytes of a run of bits; none when bits are left over (R25 condition 3). -/
def bytesOfBits : List Bool → Option (List Byte)
  | [] => some []
  | b7 :: b6 :: b5 :: b4 :: b3 :: b2 :: b1 :: b0 :: rest =>
    (bytesOfBits rest).map fun l => byteOfBits [b7, b6, b5, b4, b3, b2, b1, b0] :: l
  | _ :: _ => none

/-! ### The judgment at frame end (R25 to R28) -/

/-- What the receiver has of an ended episode in which the station did not transmit: the level in each half
bit time, from the first transition of its carrier to its frame end (R20, R22). -/
structure Reception where
  levels : List Bool
  deriving DecidableEq, Repr

/-- The kind and frame of a good episode; none for a bad one (R25).  The search for the delimiter ends
after 32 bit times (R21); a delimiter whose last bit ends exactly then counts as found, which R21 leaves open
(DESIGN CHOICE, log 22). -/
def judgeReception (r : Reception) : Option (BitVec 4 × Frame) :=
  let received := untilLastTransition r.levels
  match afterDelimiter received with
  | none => none
  | some after =>
    if 64 < received.length - after.length then none
    else (bitsOfLevels after).bind fun bits => (bytesOfBits bits).bind readFrame

/-- The row of a CANCEL frame by its scope bits (R30, R32). -/
def cancelCommand (f : Frame) : Instr :=
  let scope := byteAt f.payload 2
  if scope.getLsbD 0 then .cancelQueue f
  else if scope.getLsbD 1 then .cancelStaged f
  else if scope.getLsbD 2 then .cancelOutput f
  else .cancelNoScope f

/-- The row of a PROBE frame by its selector (R171). -/
def probeCommand (f : Frame) : Instr :=
  if f.payload.length ≠ 2 then .probeIgnored f
  else
    match selectorOf (byteAt f.payload 1) with
    | some .status => .probeStatus f
    | some .peers => .probePeers f
    | some .leadsLo => .probeLeadsLo f
    | some .leadsHi => .probeLeadsHi f
    | some .queue => .probeQueue f
    | none => .probeIgnored f

/-- The row of a good frame by its kind (R30). -/
def kindCommand (kind : BitVec 4) (f : Frame) : Instr :=
  match kind.toNat with
  | 1 => .beacon f
  | 2 => .edge f
  | 3 => .schedule f
  | 4 => .stage f
  | 5 => .release f
  | 6 => cancelCommand f
  | 7 => probeCommand f
  | 8 => .report f
  | 9 => .clear f
  | 10 => .restart f
  | _ => .unknownKind kind f

/-- The command that the frame end of a received episode is, at a station with this identifier and ring
size (R25 to R28, R30). -/
def receptionCommand (ownId : StationId) (slots : Nat) (r : Reception) : Instr :=
  match judgeReception r with
  | none => .badEpisode
  | some (kind, f) =>
    if slots ≤ f.sender.val then .foreignFrame
    else if f.sender = ownId then .clash
    else kindCommand kind f

/-- The kind code and the frame that a frame command stands for (R30). -/
def frameOf : Instr → Option (BitVec 4 × Frame)
  | .beacon f => some (1, f)
  | .edge f => some (2, f)
  | .schedule f => some (3, f)
  | .stage f => some (4, f)
  | .release f => some (5, f)
  | .cancelQueue f => some (6, f)
  | .cancelStaged f => some (6, f)
  | .cancelOutput f => some (6, f)
  | .cancelNoScope f => some (6, f)
  | .probeStatus f => some (7, f)
  | .probePeers f => some (7, f)
  | .probeLeadsLo f => some (7, f)
  | .probeLeadsHi f => some (7, f)
  | .probeQueue f => some (7, f)
  | .probeIgnored f => some (7, f)
  | .report f => some (8, f)
  | .clear f => some (9, f)
  | .restart f => some (10, f)
  | .unknownKind kind f => some (kind, f)
  | .reset => none
  | .resetRelease => none
  | .readEnd _ => none
  | .joinWindowEnd _ => none
  | .carrierStart => none
  | .ifgEnd => none
  | .roundEnd => none
  | .transmitStart => none
  | .readbackMismatch => none
  | .ownComplete => none
  | .ownAborted => none
  | .badEpisode => none
  | .foreignFrame => none
  | .clash => none
  | .unjudgedFrameEnd => none
  | .inputEdge _ _ => none
  | .dueDelivery => none
  | .onPhaseExpiry _ => none
  | .offPhaseExpiry _ => none
  | .recoverExpiry _ => none
  | .beaconTimerExpiry => none
  | .announcedTimerExpiry => none
  | .silenceTimerExpiry _ => none
  | .candidateExpiry => none
  | .stageLapse _ => none
  | .inputSample _ _ => none
  | .delimiterFound => none
  | .delimiterSearchEnded => none

end Sys2Proof.Machine
end

