-- ==== Sys2Proof/Machine/Flags.lean ====
section
/-! DEFINITION. The fault flags, the last reject reason and the FAULT line (R163 to R168). -/

namespace Sys2Proof.Machine

/-- The number of a fault flag (R163). -/
def flagNumber : Flag → Nat
  | .queueFull => 0
  | .cueRejected => 1
  | .staleCue => 2
  | .lateFire => 3
  | .timeJump => 4
  | .timeConflict => 5
  | .storeParity => 6
  | .captureOverrun => 7
  | .txDropped => 8
  | .idClash => 9
  | .stageLapsed => 10
  | .lineError => 11
  | .bindingRejected => 12

/-- The 13-bit set holding one flag. -/
def flagBit (f : Flag) : BitVec 13 := 1#13 <<< flagNumber f

/-- A flag is set in a set of flags. -/
def flagIn (flags : BitVec 13) (f : Flag) : Bool := flags.getLsbD (flagNumber f)

/-- A flag of the fault unit is set. -/
def State.flag (s : State) (f : Flag) : Bool := flagIn s.faults.flags f

/-- A cause sets its flag, which stays set (R163). -/
def State.setFlag (f : Flag) (s : State) : State :=
  s.withFaults { s.faults with flags := s.faults.flags ||| flagBit f }

/-- Set a flag when its cause has occurred. -/
def State.setFlagIf (cause : Bool) (f : Flag) (s : State) : State :=
  if cause then s.setFlag f else s

/-- The flag that a rejection sets beside its reason (R44, R47, R48, R31, R102). -/
def rejectFlag : RejectReason → Flag
  | .noReason => .cueRejected
  | .badChannel => .cueRejected
  | .badProgram => .cueRejected
  | .tooFar => .cueRejected
  | .stale => .staleCue
  | .queueFull => .queueFull
  | .malformed => .cueRejected

/-- A rejection records its reason over the one before and sets its flag (R167). -/
def State.reject (r : RejectReason) (s : State) : State :=
  (s.withFaults { s.faults with reason := r }).setFlag (rejectFlag r)

/-- Clear the named flags (R168). -/
def State.clearFlags (named : BitVec 13) (s : State) : State :=
  s.withFaults { s.faults with flags := s.faults.flags &&& ~~~named }

/-- The FAULT line is asserted exactly when the station is UNCONFIGURED or an unmasked flag is set
(R166). -/
def State.faultLine (s : State) : Bool :=
  decide (s.loader.life = .unconfigured) || decide (s.faults.flags &&& ~~~s.faults.mask ≠ 0)

/-- The code of a last reject reason (R167). -/
def reasonCode : RejectReason → Byte
  | .noReason => 0
  | .badChannel => 1
  | .badProgram => 2
  | .tooFar => 3
  | .stale => 4
  | .queueFull => 5
  | .malformed => 6

/-- The code of a life state (R34). -/
def lifeCode : LifeState → Byte
  | .loading => 0
  | .unconfigured => 1
  | .joining => 2
  | .running => 3

end Sys2Proof.Machine
end

