-- ==== Sys2Proof/Machine/Channels.lean ====
section
/-! DEFINITION. The channel unit (chapter 4): how a program runs, how a delivered firing meets a channel,
and CANCEL in output scope.  `g` is the channel's recovery gap (R70). -/

namespace Sys2Proof.Machine

/-- The length of an active half of a SQUARE, the period halved upward (R76). -/
def activeHalf (p : Program) : Nat := (p.period.toNat + 1) / 2

/-- The length of an idle half of a SQUARE, the period halved downward (R76). -/
def idleHalf (p : Program) : Nat := p.period.toNat / 2

/-- The length of the ON phases of a program (R73). -/
def onTicks (p : Program) : Nat :=
  match p.kind with
  | .pulse => p.width.toNat
  | .retrig => p.width.toNat
  | .train => p.width.toNat
  | .square => activeHalf p
  | .levelOn => 0
  | .levelOff => 0

/-- The remaining count a program starts with: its count for a finite TRAIN or SQUARE (R73). -/
def startCount (p : Program) : Option Nat :=
  match p.kind with
  | .train => if p.count = 0 then none else some p.count.toNat
  | .square => if p.count = 0 then none else some p.count.toNat
  | .pulse => none
  | .retrig => none
  | .levelOn => none
  | .levelOff => none

/-- A non-level firing starts its program (R73, R86). -/
def Channel.start (p : Program) (late : Bool) (c : Channel) : Channel :=
  { c with phase := .on (onTicks p), running := some p, remaining := startCount p, late := late }

/-- The channel enters RECOVER with a fresh gap, its work kept (R77). -/
def Channel.enterRecover (g : Nat) (c : Channel) : Channel := { c with phase := .recover g }

/-- The running work is stopped: RECOVER with a fresh gap and an empty pending slot (R79, R88). -/
def Channel.stop (g : Nat) (c : Channel) : Channel :=
  { c with phase := .recover g, waiting := none }

/-- A non-level firing is placed in the pending slot; a replacement sets the overwritten marker
(R82, R87). -/
def Channel.place (p : Program) (late : Bool) (c : Channel) : Channel :=
  { c with waiting := some ⟨p, late⟩, overwritten := c.overwritten || c.waiting.isSome }

/-- A LEVEL_ON firing puts the channel in HOLD (R78). -/
def Channel.holdOn (p : Program) (late : Bool) (c : Channel) : Channel :=
  { c with phase := .hold, running := some p, remaining := none, waiting := none, late := late }

/-- A LEVEL_OFF firing or a CANCEL in output scope ends whatever runs (R79, R88). -/
def Channel.endWork (g : Nat) (c : Channel) : Channel :=
  match c.phase with
  | .idle => c
  | .recover _ => { c with waiting := none }
  | .on _ => c.stop g
  | .off _ => c.stop g
  | .hold => c.stop g

/-- The running kind (R71): NONE, here none, exactly when no program is present. -/
def Channel.runningKind (c : Channel) : Option ProgramKind := c.running.map Program.kind

/-- A non-level firing meets the channel (R73, R81, R82, R83). -/
def Channel.takeNonLevel (g : Nat) (p : Program) (late : Bool) (c : Channel) : Channel :=
  match c.phase with
  | .idle => c.start p late
  | .on _ =>
    if c.runningKind = some .retrig ∧ p.kind = .retrig then
      { c with phase := .on p.width.toNat, running := some p, late := late }
    else c.place p late
  | .off _ => c.place p late
  | .recover _ => c.place p late
  | .hold => { c.enterRecover g with waiting := some ⟨p, late⟩ }

/-- A delivered firing meets the channel (R80 and the table of section 4.4). -/
def Channel.takeFiring (g : Nat) (p : Program) (late : Bool) (c : Channel) : Channel :=
  match p.kind with
  | .levelOn => c.holdOn p late
  | .levelOff => c.endWork g
  | .pulse => c.takeNonLevel g p late
  | .retrig => c.takeNonLevel g p late
  | .train => c.takeNonLevel g p late
  | .square => c.takeNonLevel g p late

/-- The remaining count less one, when present (R75, R76). -/
def Channel.countDown (c : Channel) : Channel := { c with remaining := c.remaining.map fun n => n - 1 }

/-- The end of an ON phase (R74, R75, R76). -/
def Channel.onEnds (g : Nat) (c : Channel) : Channel :=
  match c.running with
  | none => c
  | some p =>
    match p.kind with
    | .pulse => c.enterRecover g
    | .retrig => c.enterRecover g
    | .train =>
      if c.countDown.remaining = some 0 then c.countDown.enterRecover g
      else { c.countDown with phase := .off (p.period.toNat - p.width.toNat) }
    | .square => { c with phase := .off (idleHalf p) }
    | .levelOn => c
    | .levelOff => c

/-- The end of an OFF phase (R75, R76). -/
def Channel.offEnds (g : Nat) (c : Channel) : Channel :=
  match c.running with
  | none => c
  | some p =>
    match p.kind with
    | .train =>
      if c.waiting.isSome then c.enterRecover g else { c with phase := .on p.width.toNat }
    | .square =>
      if c.countDown.remaining = some 0 ∨ c.waiting.isSome then c.countDown.enterRecover g
      else { c.countDown with phase := .on (activeHalf p) }
    | .pulse => c
    | .retrig => c
    | .levelOn => c
    | .levelOff => c

/-- The end of a RECOVER phase: the waiting firing starts, or the channel enters IDLE (R77, R87). -/
def Channel.recoverEnds (c : Channel) : Channel :=
  match c.waiting with
  | some w => { c.start w.program w.late with waiting := none }
  | none => { c with phase := .idle, running := none, remaining := none, overwritten := false }

/-- The output of a channel is at its active level exactly in ON and HOLD (R72). -/
def Channel.active (c : Channel) : Bool :=
  match c.phase with
  | .on _ => true
  | .hold => true
  | .idle => false
  | .off _ => false
  | .recover _ => false

/-- One local tick of the phase timer (R71). -/
def Channel.tick (c : Channel) : Channel :=
  match c.phase with
  | .on n => { c with phase := .on (n - 1) }
  | .off n => { c with phase := .off (n - 1) }
  | .recover n => { c with phase := .recover (n - 1) }
  | .idle => c
  | .hold => c

/-- The recovery gap of a channel (R70). -/
def State.gap (s : State) (c : ChannelId) : Nat := s.cfg.channels[c].gap

/-- A change of one channel context. -/
def State.updateChannel (c : ChannelId) (f : Channel → Channel) (s : State) : State :=
  s.withChannels (s.channels.set c (f s.channels[c]))

/-- Delivery hands a firing to its channel (R55, R80). -/
def State.deliver (c : ChannelId) (p : Program) (late : Bool) (s : State) : State :=
  s.updateChannel c (Channel.takeFiring (s.gap c) p late)

/-- CANCEL in output scope (R88). -/
def State.cancelOutput (set : Byte) (s : State) : State :=
  s.withChannels (mapFamily (fun i c => if set.getLsbD i.val then c.endWork (s.gap i) else c) s.channels)

end Sys2Proof.Machine
end

