-- ==== Sys2Proof/Machine/Queue.lean ====
section
/-! DEFINITION. The cue queue (chapter 3): order and message keys, the time check, offers, delivery, the
step and flush notices, and CANCEL in queue scope. -/

namespace Sys2Proof.Machine

/-! ### Entries -/

/-- The message key of an entry or firing, when it has one (R39). -/
def CueContent.key (c : CueContent) : Option (StationId × Byte × ChannelId) :=
  match c.origin with
  | .message sender => if c.tag = 0 then none else some (sender, c.tag, c.channel)
  | .binding _ => none

/-- An entry's check bits fit its stored content (R54): they were computed over it, or the check
function does not tell the two contents apart (log 5). -/
def CueEntry.checkHolds (e : CueEntry) : Bool :=
  decide (e.check = e.content) || Config.checkCollides e.check e.content

/-- The entry a stored firing makes, its check bits freshly computed (R37, R49). -/
def Firing.toEntry (f : Firing) : CueEntry := ⟨f.fireTime, f.content, f.content⟩

/-- A new entry stands after every entry not later than it and before every later one (R38). -/
def insertEntry (e : CueEntry) : List CueEntry → List CueEntry
  | [] => [e]
  | x :: rest => if later x.fireTime e.fireTime then e :: x :: rest else x :: insertEntry e rest

/-- Several firings are inserted one after another (R38, R49, R52). -/
def insertAll (fs : List Firing) (q : List CueEntry) : List CueEntry :=
  fs.foldl (fun q f => insertEntry f.toEntry q) q

/-! ### The time check -/

/-- The classes of the time check (R42). -/
inductive TimeClass where
  | tooFar
  | future
  | dueNow
  | late
  | stale
  deriving DecidableEq, Repr

/-- The class of a signed difference of fire time and bus time (R42). -/
def classOf (lateWindow : Nat) (d : Int) : TimeClass :=
  if (Config.horizon : Int) < d then .tooFar
  else if 0 < d then .future
  else if d = 0 then .dueNow
  else if -(lateWindow : Int) ≤ d then .late
  else .stale

/-- The class of a fire time against the station's bus time (R42). -/
def State.timeClass (s : State) (fire : BusTime) : TimeClass :=
  classOf s.cfg.lateWindow (signedDiff fire s.timebase.busTime)

/-- The reason with which a class refuses an offer, if it does (R44). -/
def TimeClass.refusal : TimeClass → Option RejectReason
  | .tooFar => some .tooFar
  | .stale => some .stale
  | .future => none
  | .dueNow => none
  | .late => none

/-- The reason of the first refused firing of an offer, in its order (R51). -/
def State.firstRefusal (s : State) (fs : List Firing) : Option RejectReason :=
  fs.findSome? fun f => (s.timeClass f.fireTime).refusal

/-- The firings of an offer that are stored (R42). -/
def State.futures (s : State) (fs : List Firing) : List Firing :=
  fs.filter fun f => decide (s.timeClass f.fireTime = .future)

/-- The firings of an offer that are delivered at once (R43). -/
def State.immediates (s : State) (fs : List Firing) : List Firing :=
  fs.filter fun f => decide (s.timeClass f.fireTime ≠ .future)

/-! ### Offers -/

/-- An entry holds a message key that a firing of the offer also has (R39, R48, R52). -/
def replacedBy (fs : List Firing) (e : CueEntry) : Bool :=
  e.content.key.isSome && fs.any fun f => decide (f.content.key = e.content.key)

/-- A firing of the due-now or late class goes to its channel at once (R43). -/
def State.deliverNow (s : State) (f : Firing) : State :=
  s.deliver f.content.channel f.content.program (decide (s.timeClass f.fireTime = .late))

/-- An offer all of whose firings pass the time check, and that fits, takes effect (R43, R49, R52). -/
def State.acceptOffer (s : State) (fs : List Firing) : State :=
  let kept := s.queue.filter fun e => !replacedBy fs e
  let stored := s.withQueue (insertAll (s.futures fs) kept)
  let delivered := (s.immediates fs).foldl State.deliverNow stored
  delivered.setFlagIf (fs.any fun f => decide (s.timeClass f.fireTime = .late)) .lateFire

/-- The need of an offer exceeds the free entries (R48, R50, R52), counted without subtraction: the
stored firings and the entries that are not replaced are more than the queue holds. -/
def State.offerOverflows (s : State) (fs : List Firing) : Bool :=
  decide (Config.queueCapacity <
    (s.futures fs).length + (s.queue.filter fun e => !replacedBy fs e).length)

/-- The queue decides an offer whole (R41 to R44, R48 to R52). -/
def State.offer (fs : List Firing) (s : State) : State :=
  match s.firstRefusal fs with
  | some reason => s.reject reason
  | none => if s.offerOverflows fs then s.reject .queueFull else s.acceptOffer fs

/-! ### Delivery -/

/-- A removed entry is verified and handed to its channel, or discarded with STORE_PARITY (R54, R55). -/
def State.deliverEntry (late : Bool) (s : State) (e : CueEntry) : State :=
  if e.checkHolds then s.deliver e.content.channel e.content.program late else s.setFlag .storeParity

/-- The tick that brings bus time to T removes the due entries and delivers them in queue order
(R53, R1). -/
def State.busTick (s : State) : State :=
  let t := s.timebase.busTime + 1
  let due := s.queue.filter fun e => decide (e.fireTime = t)
  let rest := s.queue.filter fun e => !decide (e.fireTime = t)
  due.foldl (State.deliverEntry false)
    ((s.withTimebase { s.timebase with busTime := t }).withQueue rest)

/-- A step from `before` to `after` reaches an entry (R56). -/
def reachedBy (before after : BusTime) (e : CueEntry) : Bool :=
  later e.fireTime before && !later e.fireTime after

/-- A step to `after` has carried bus time past an entry, which then is late.  An entry whose fire time the
step reaches exactly is not late (R55, R56); R64 says late for one that the step reaches or passes.
DESIGN CHOICE (log 27), safe: the model follows R55 and R56. -/
def passedBy (after : BusTime) (e : CueEntry) : Bool := decide (signedDiff e.fireTime after < 0)

/-- The queue's response to a step notice (R56). -/
def State.stepNotice (before after : BusTime) (s : State) : State :=
  let reached := s.queue.filter (reachedBy before after)
  let rest := s.queue.filter fun e => !reachedBy before after e
  let delivered := reached.foldl (fun t e => t.deliverEntry (passedBy after e) e) (s.withQueue rest)
  delivered.setFlagIf (reached.any (passedBy after)) .lateFire

/-- The queue's response to a flush notice (R57). -/
def State.flushNotice (s : State) : State := s.withQueue []

/-! ### SCHEDULE and CANCEL -/

/-- Some channel of a set is disabled in the channel configuration (R47, R102). -/
def State.namesDisabled (s : State) (set : Byte) : Bool :=
  (channelsOf set).any fun c => !s.cfg.channels[c].enabled

/-- The firings of an accepted SCHEDULE, ascending by channel (R49). -/
def scheduleFirings (f : Frame) (p : Program) : List Firing :=
  (channelsOf (byteAt f.payload 0)).map fun c =>
    ⟨scheduleFireTime f, ⟨c, p, .message f.sender, byteAt f.payload 1⟩⟩

/-- A SCHEDULE payload handed to the queue (R31, R46 to R49). -/
def State.takeSchedule (f : Frame) (s : State) : State :=
  if !scheduleFormOk f.payload then s.reject .malformed
  else if s.namesDisabled (byteAt f.payload 0) then s.reject .badChannel
  else
    match (rawProgramAt f.payload 8).judge with
    | none => s.reject .badProgram
    | some p =>
      match (s.timeClass (scheduleFireTime f)).refusal with
      | some reason => s.reject reason
      | none => s.offer (scheduleFirings f p)

/-- A CANCEL in queue scope removes an entry (R58). -/
def cancelsEntry (sender : StationId) (set tag : Byte) (e : CueEntry) : Bool :=
  set.getLsbD e.content.channel.val &&
    (decide (tag = 0) || (decide (e.content.origin = .message sender) && decide (e.content.tag = tag)))

/-- CANCEL in queue scope (R58, R59). -/
def State.cancelQueue (sender : StationId) (set tag : Byte) (s : State) : State :=
  s.withQueue (s.queue.filter fun e => !cancelsEntry sender set tag e)

/-- One of the scopes that a delivery can come between acts (R58, R88). -/
def State.cancelScope (l : ScopeLeft) (s : State) : State :=
  match l.scope with
  | .queue => s.cancelQueue l.sender l.set l.tag
  | .output => s.cancelOutput l.set

/-- The scope that has waited for the delivery of its instant acts (R59, R95; log 26). -/
def State.finishCancel (s : State) : State :=
  match s.scopeLeft with
  | none => s
  | some l => (s.cancelScope l).withScopeLeft none

end Sys2Proof.Machine
end

