-- ==== Sys2Proof/Machine/Bindings.lean ====
section
/-! DEFINITION. The binding table (chapter 7): the load of its entries, and the judgment of edge reports. -/

namespace Sys2Proof.Machine

/-! ### Load (R128, R36) -/

/-- The source of an entry, when its code is valid (R36). -/
def sourceOf (b : Byte) : Option Source :=
  if h : b.toNat < 32 then some (.station ⟨b.toNat, h⟩)
  else if b = 255 then some .any
  else none

/-- The edge of an entry, when its code is valid (R36). -/
def bindingEdgeOf (code : BitVec 2) : Option EdgeSelect :=
  match code with
  | 0 => none
  | 1 => some .rise
  | 2 => some .fall
  | 3 => some .both

/-- The divider of an entry, when its code is valid (R36). -/
def dividerOf (code : Nat) : Option Nat := if code ≤ 4 then some (2 ^ code) else none

/-- The channel of an entry, when its code is valid and the channel enabled (R128). -/
def enabledChannelOf (channels : Vector ChannelConfig 8) (b : Byte) : Option ChannelId :=
  if h : b.toNat < 8 then if channels[b.toNat].enabled then some ⟨b.toNat, h⟩ else none
  else none

/-- The content of an entry whose enable bit is set, when no condition of R128 disables it. -/
def judgeBinding (channels : Vector ChannelConfig 8) (e : List Byte) : Option BindingContent := do
  let edge ← bindingEdgeOf ((byteAt e 0).extractLsb' 3 2)
  let source ← sourceOf (byteAt e 1)
  let divider ← dividerOf ((byteAt e 2).extractLsb' 4 4).toNat
  let phase := ((byteAt e 2).extractLsb' 0 4).toNat
  if phase < divider then
    let channel ← enabledChannelOf channels (byteAt e 3)
    let program ← (rawProgramAt e 7).judge
    some ⟨source, ((byteAt e 0).extractLsb' 5 2).toFin, edge, divider, phase, channel, field24 e 4, program⟩
  else none

/-- The 16 bytes of entry i in a configuration block (R35). -/
def bindingBytes (block : List Byte) (i : Nat) : List Byte := (block.drop (64 + 16 * i)).take 16

/-- The enable bit of an entry's bytes (R36). -/
def bindingEnabled (e : List Byte) : Bool := (byteAt e 0).getLsbD 7

/-- The entry as loaded: enabled with its parity computed, or disabled (R128). -/
def loadBinding (channels : Vector ChannelConfig 8) (e : List Byte) : Option Binding :=
  if bindingEnabled e then (judgeBinding channels e).map fun c => ⟨c, c⟩ else none

/-- The table as loaded (R128). -/
def loadBindings (channels : Vector ChannelConfig 8) (block : List Byte) : Vector (Option Binding) 16 :=
  Vector.ofFn fun i => loadBinding channels (bindingBytes block i.val)

/-- Some entry whose enable bit is set is disabled by its checks (R128). -/
def rejectsBinding (channels : Vector ChannelConfig 8) (block : List Byte) : Bool :=
  (List.finRange 16).any fun i =>
    bindingEnabled (bindingBytes block i.val) &&
      (judgeBinding channels (bindingBytes block i.val)).isNone

/-! ### Judgment of an edge report (R131 to R134) -/

/-- An entry's parity fits its stored fields (R133; log 5). -/
def Binding.parityHolds (b : Binding) : Bool :=
  decide (b.parity = b.content) || Config.parityCollides b.parity b.content

/-- The source of an entry admits a sender (R131 condition 1). -/
def Source.admits (src : Source) (sender : StationId) : Bool :=
  match src with
  | .any => true
  | .station id => decide (id = sender)

/-- A direction is selected (R115, R131 condition 3). -/
def EdgeSelect.selects (e : EdgeSelect) (rising : Bool) : Bool :=
  match e with
  | .off => false
  | .rise => rising
  | .fall => !rising
  | .both => true

/-- The four conditions of a match (R131). -/
def BindingContent.fits (c : BindingContent) (sender : StationId) (r : EdgeReport) : Bool :=
  c.source.admits sender && decide (c.input = r.input) && c.edge.selects r.rising &&
    decide (r.count.toNat % c.divider = c.phase)

/-- The firing a matching entry offers (R134). -/
def bindingFiring (i : BindingId) (c : BindingContent) (r : EdgeReport) : Firing :=
  ⟨r.time + c.delay.setWidth 40, ⟨c.channel, c.program, .binding i, 0⟩⟩

/-- One entry judges an edge report (R131, R133, R134). -/
def State.judgeEntry (sender : StationId) (r : EdgeReport) (s : State) (i : BindingId) : State :=
  match s.bindings[i] with
  | none => s
  | some b =>
    if b.parityHolds then
      if b.content.fits sender r then s.offer [bindingFiring i b.content r] else s
    else s.setFlag .storeParity

/-- An edge report is judged against the table in ascending order of index (R131). -/
def State.judgeReport (sender : StationId) (r : EdgeReport) (s : State) : State :=
  (List.finRange 16).foldl (State.judgeEntry sender r) s

/-- An EDGE payload handed to the binding table (R31, R130). -/
def State.takeEdgeReport (f : Frame) (s : State) : State :=
  if f.payload.length ≠ 7 then s else s.judgeReport f.sender (edgeReportOf f.payload)

end Sys2Proof.Machine
end

