-- ==== Sys2Proof/Machine/Inputs.lean ====
section
/-! DEFINITION. The input unit (chapter 6): sampling and the filter, captures and self-delivery, the capture
slot and its life on the line. -/

namespace Sys2Proof.Machine

/-- A change of one input context. -/
def State.updateInput (n : InputId) (f : Input → Input) (s : State) : State :=
  s.withInputs (s.inputs.set n (f s.inputs[n]))

/-! ### The capture slot -/

/-- A capture that marks the loss of an earlier one (R116). -/
def Capture.overrunning (c : Capture) : Capture := { c with overrun := true }

/-- An edge updates the capture slot (R118). -/
def State.updateSlot (n : InputId) (c : Capture) (s : State) : State :=
  match s.inputs[n].slot with
  | none => (s.updateInput n fun i => { i with slot := some ⟨c, false⟩ }).join (.edge n)
  | some held =>
    if held.inFlight then
      if s.inputs[n].followOn.isSome then
        (s.updateInput n fun i => { i with followOn := some c.overrunning }).setFlag .captureOverrun
      else s.updateInput n fun i => { i with followOn := some c }
    else
      (s.updateInput n fun i => { i with slot := some ⟨c.overrunning, false⟩ }).setFlag .captureOverrun

/-- The start of an EDGE frame marks its slot in flight (R119). -/
def State.edgeStarts (n : InputId) (s : State) : State :=
  s.updateInput n fun i => { i with slot := i.slot.map fun g => { g with inFlight := true } }

/-- The follow-on becomes the slot's capture, not in flight (R120, R121, R122). -/
def Input.followOnTakes (mark : Capture → Capture) (i : Input) : Input :=
  { i with slot := i.followOn.map fun c => ⟨mark c, false⟩, followOn := none }

/-- The completion of an EDGE frame, its request gone from the list (R120). -/
def State.edgeCompletes (n : InputId) (s : State) : State :=
  let moved := s.updateInput n (Input.followOnTakes id)
  if s.inputs[n].followOn.isSome then moved.join (.edge n) else moved

/-- The abort of an EDGE frame whose request is retried (R121). -/
def State.edgeRetried (n : InputId) (s : State) : State :=
  if s.inputs[n].followOn.isSome then
    (s.updateInput n (Input.followOnTakes Capture.overrunning)).setFlag .captureOverrun
  else s

/-- The drop of an EDGE request, the request gone from the list (R122). -/
def State.edgeDropped (n : InputId) (s : State) : State :=
  let moved := s.updateInput n (Input.followOnTakes Capture.overrunning)
  if s.inputs[n].followOn.isSome then (moved.setFlag .captureOverrun).join (.edge n) else moved

/-- Every input whose slot is full raises an EDGE request, ascending (R123). -/
def State.raiseFullSlots (s : State) : State :=
  (List.finRange 4).foldl (fun t n => if t.inputs[n].slot.isSome then t.join (.edge n) else t) s

/-! ### Edges -/

/-- An accepted change of a selected direction: the count rises, the capture is made, delivered to the
station's own binding table and put to the slot (R115 to R118). -/
def State.acceptEdge (n : InputId) (rising : Bool) (time : BusTime) (s : State) : State :=
  let count := s.inputs[n].edgeCount + 1
  let counted := s.updateInput n fun i => { i with edgeCount := count }
  let delivered := counted.judgeReport s.cfg.ownId ⟨n, rising, count, time⟩
  delivered.updateSlot n ⟨time, rising, count, false⟩

/-! ### Sampling and the filter -/

/-- The run after one more differing sample (R114). -/
def extendRun (now : BusTime) : Option Run → Run
  | none => ⟨1, now⟩
  | some r => ⟨r.samples + 1, r.since⟩

/-- What the filter makes of a sample (R113, R114). -/
inductive Filtered where
  /-- the first sample sets the stable level -/
  | first
  /-- the sample agrees: the run is discarded -/
  | agrees
  /-- the run goes on -/
  | runs (r : Run)
  /-- the change is accepted, with this captured time -/
  | accepted (time : BusTime)
  deriving DecidableEq, Repr

/-- The filter compares a sample with the stable level (R114): K is the filter count. -/
def filterSample (k : Nat) (now : BusTime) (level : Bool) (i : Input) : Filtered :=
  match i.stable with
  | none => .first
  | some st =>
    if level = st then .agrees
    else if k ≤ (extendRun now i.run).samples then .accepted (extendRun now i.run).since
    else .runs (extendRun now i.run)

/-- The context after a sample, the edge count and the slot apart (R113, R114). -/
def Input.afterSample (level : Bool) (period : Nat) (r : Filtered) (i : Input) : Input :=
  match r with
  | .first => { i with stable := some level, run := none, sampleTimer := some period }
  | .agrees => { i with run := none, sampleTimer := some period }
  | .runs run => { i with run := some run, sampleTimer := some period }
  | .accepted _ => { i with stable := some level, run := none, sampleTimer := some period }

/-- The pin's level is as the sample shows it. -/
def State.seeLevel (n : InputId) (level : Bool) (s : State) : State :=
  s.withExt { s.ext with tin := s.ext.tin.set n level }

/-- A sample instant of input n has come: the station is RUNNING and the sample timer stands at zero
(R113). -/
def State.samplesNow (n : InputId) (s : State) : Bool :=
  s.isRunning && expired s.inputs[n].sampleTimer

/-- What the filter would make of a sample of input n at this level. -/
def State.filtered (n : InputId) (level : Bool) (s : State) : Filtered :=
  filterSample s.cfg.inputs[n].count s.timebase.busTime level s.inputs[n]

/-- A sample is taken (R113 to R115). -/
def State.takeSample (n : InputId) (level : Bool) (s : State) : State :=
  let r := s.filtered n level
  let sampled := (s.seeLevel n level).updateInput n
    (Input.afterSample level s.cfg.inputs[n].period r)
  match r with
  | .accepted time =>
    if s.cfg.inputs[n].select.selects level then sampled.acceptEdge n level time else sampled
  | .first => sampled
  | .agrees => sampled
  | .runs _ => sampled

/-- A sample of input n at this level would be an edge (R115). -/
def State.edgeNow (n : InputId) (level : Bool) (s : State) : Bool :=
  match s.filtered n level with
  | .accepted _ => s.cfg.inputs[n].select.selects level
  | .first => false
  | .agrees => false
  | .runs _ => false

/-- At entry to RUNNING each input takes its first sample (R113, R182). -/
def State.firstSamples (levels : BitVec 4) (s : State) : State :=
  (s.withExt { s.ext with tin := Vector.ofFn fun n => levels.getLsbD n.val }).withInputs
    (mapFamily
      (fun n i => i.afterSample (levels.getLsbD n.val) s.cfg.inputs[n].period .first) s.inputs)

end Sys2Proof.Machine
end

