-- ==== Sys2Proof/Machine/Peers.lean ====
section
/-! DEFINITION. The peer table (chapter 9): hearing a peer, silence, beacon summaries. -/

namespace Sys2Proof.Machine

/-- A change of one peer entry. -/
def State.updatePeer (x : StationId) (f : Peer → Peer) (s : State) : State :=
  s.withPeers (s.peers.set x (f s.peers[x]))

/-- A peer entry is PRESENT (R156). -/
def Peer.isPresent (p : Peer) : Bool :=
  match p.presence with
  | .present _ => true
  | .absent => false
  | .silent => false

/-- A good frame from a peer is heard (R157): PRESENT with a fresh silence timer and the saturated lead;
the lost latch and the summary stay. -/
def State.hearPeer (sender : StationId) (lead : Int) (s : State) : State :=
  s.updatePeer sender fun p =>
    { p with presence := .present s.cfg.silenceTime, lead := saturate lead }

/-- The silence timer of an entry has reached zero (R158). -/
def Peer.silenceExpired (p : Peer) : Bool := decide (p.presence = .present 0)

/-- A peer falls silent and its lost latch is set (R158). -/
def Peer.fallSilent (p : Peer) : Peer := { p with presence := .silent, lost := true }

/-- One local tick of a silence timer (R158). -/
def Peer.tick (p : Peer) : Peer :=
  match p.presence with
  | .present n => { p with presence := .present (n - 1) }
  | .absent => p
  | .silent => p

/-- A BEACON payload handed to the peer table (R31, R159). -/
def State.takeBeacon (f : Frame) (s : State) : State :=
  if f.payload.length ≠ 4 then s
  else s.updatePeer f.sender fun p =>
    { p with summary := some ⟨byteAt f.payload 0, field16 f.payload 1⟩ }

/-- Every lost latch is cleared (R160). -/
def State.clearLost (s : State) : State :=
  s.withPeers (mapFamily (fun _ p => { p with lost := false }) s.peers)

end Sys2Proof.Machine
end

