-- ==== Sys2Proof/Machine/Reports.lean ====
section
/-! DEFINITION. The snapshot latch (chapter 10): the report bodies, PROBE, CLEAR, and mute. -/

namespace Sys2Proof.Machine

/-! ### Report bodies (R174, R175) -/

/-- A set of up to eight members as a byte, member n at bit n + place (00_scope.md 4.7). -/
def setByte (place : Nat) (members : List Bool) : Byte :=
  match members with
  | [] => 0
  | b :: rest => bitAt place b ||| setByte (place + 1) rest

/-- The code of a channel state (R174). -/
def phaseCode : Phase → BitVec 3
  | .idle => 0
  | .on _ => 1
  | .off _ => 2
  | .recover _ => 3
  | .hold => 4

/-- The code of a running kind, NONE being 0 (R174). -/
def runningKindCode (c : Channel) : Byte :=
  match c.runningKind with
  | none => 0
  | some k => kindCode k

/-- The two STATUS bytes of a channel (R97, R174). -/
def channelBytes (c : Channel) : List Byte :=
  [(phaseCode c.phase ++ 0#5 : BitVec 8) ||| runningKindCode c,
   bitAt 3 c.waiting.isSome ||| bitAt 2 c.late ||| bitAt 1 c.overwritten ||| bitAt 0 c.active]

/-- The capture of input n is held (R125). -/
def Input.holdsCapture (i : Input) : Bool := i.slot.isSome

/-- The slot of input n is in flight (R125). -/
def Input.slotInFlight (i : Input) : Bool :=
  match i.slot with
  | none => false
  | some g => g.inFlight

/-- The slot of input n holds a capture with its overrun set (R125). -/
def Input.slotOverrun (i : Input) : Bool :=
  match i.slot with
  | none => false
  | some g => g.capture.overrun

/-- The last sender as a byte; it is known at every STATUS, the prober (R155, R174).  The 0 for unknown
is never read there (log 13). -/
def lastSenderByte (l : Option StationId) : Byte :=
  match l with
  | none => 0
  | some x => BitVec.ofNat 8 x.val

/-- Byte 1 of a STATUS body (R174). -/
def State.accessByte (s : State) : Byte :=
  bitAt 7 s.mute ||| bitAt 6 (decide (s.line.mode = .openRound)) ||| bitAt 5 s.announced
    ||| BitVec.ofNat 8 s.line.txList.length

/-- The STATUS body (R174). -/
def State.statusBody (s : State) : List Byte :=
  [lifeCode s.loader.life, s.accessByte, lastSenderByte s.line.lastSender]
    ++ bytes16 (s.faults.flags.setWidth 16) ++ bytes16 (s.faults.mask.setWidth 16)
    ++ [reasonCode s.faults.reason] ++ bytes40 s.timebase.busTime
    ++ [BitVec.ofNat 8 s.queue.length,
        setByte 0 (s.staging.toList.map Option.isSome),
        setByte 4 (s.inputs.toList.map Input.slotInFlight)
          ||| setByte 0 (s.inputs.toList.map Input.holdsCapture),
        setByte 0 (s.inputs.toList.map Input.slotOverrun)]
    ++ s.channels.toList.flatMap channelBytes

/-- The code of a presence (R175). -/
def presenceCode : Presence → BitVec 2
  | .absent => 0
  | .present _ => 1
  | .silent => 2

/-- A summary shows faults: one of bits 0 to 12 of its fault summary is set (R160). -/
def Summary.hasFaults (m : Summary) : Bool := decide (m.faults.setWidth 13 ≠ 0)

/-- The byte of a peer in a PEERS body (R160, R175). -/
def peerByte (p : Peer) : Byte :=
  (presenceCode p.presence ++ 0#6 : BitVec 8) ||| bitAt 5 p.lost ||| bitAt 4 p.summary.isSome
    ||| bitAt 3 (p.summary.any Summary.hasFaults)
    ||| bitAt 2 (p.summary.any fun m => decide (m.life = 3))

/-- The PEERS body (R175). -/
def State.peersBody (s : State) : List Byte := s.peers.toList.map peerByte

/-- The leads of a run of peers (R175). -/
def leadsBody (l : List Peer) : List Byte := l.flatMap fun p => bytes16 p.lead

/-- The origin byte of a QUEUE entry (R175). -/
def originByte : Origin → Byte
  | .message sender => BitVec.ofNat 8 sender.val
  | .binding index => bitAt 7 true ||| BitVec.ofNat 8 index.val

/-- The eight bytes of a QUEUE entry (R175). -/
def entryBytes (e : CueEntry) : List Byte :=
  bytes40 e.fireTime ++ [BitVec.ofNat 8 e.content.channel.val, originByte e.content.origin, e.content.tag]

/-- The QUEUE body: the count and the first seven entries (R65, R175). -/
def State.queueBody (s : State) : List Byte :=
  BitVec.ofNat 8 s.queue.length :: (s.queue.take 7).flatMap entryBytes

/-- The body a selector asks for, as the blocks serve it (R172). -/
def State.body (s : State) : Selector → List Byte
  | .status => s.statusBody
  | .peers => s.peersBody
  | .leadsLo => leadsBody (s.peers.toList.take 16)
  | .leadsHi => leadsBody (s.peers.toList.drop 16)
  | .queue => s.queueBody

/-! ### PROBE (R171, R172) -/

/-- The snapshot a PROBE freezes (R171). -/
def State.snapshot (f : Frame) (sel : Selector) (s : State) : Snapshot :=
  ⟨byteAt f.payload 0, f.sender, sel, s.body sel⟩

/-- Serving a PEERS snapshot clears every lost latch; the other selectors change nothing (R160). -/
def State.served (sel : Selector) (s : State) : State :=
  match sel with
  | .peers => s.clearLost
  | .status => s
  | .leadsLo => s
  | .leadsHi => s
  | .queue => s

/-- The latch accepts a PROBE: the snapshot fills it and a REPORT request joins (R171, R172). -/
def State.acceptProbe (f : Frame) (sel : Selector) (s : State) : State :=
  ((s.served sel).withFaults { s.faults with latch := some (s.snapshot f sel) }).join .report

/-- A PROBE payload handed to the latch: only in STATION mode and with 2 bytes, and accepted only when
the station is not mute, the latch is empty and the selector known (R30, R31, R171). -/
def State.takeProbe (f : Frame) (s : State) : State :=
  if f.destMode ≠ .station ∨ f.payload.length ≠ 2 ∨ s.mute ∨ s.faults.latch.isSome then s
  else
    match selectorOf (byteAt f.payload 1) with
    | none => s
    | some sel => s.acceptProbe f sel

/-- The snapshot latch empties (R151, R152, R169). -/
def State.emptyLatch (s : State) : State := s.withFaults { s.faults with latch := none }

end Sys2Proof.Machine
end

