-- ==== Sys2Proof/Machine/Access.lean ====
section
/-! DEFINITION. Access to the line (chapter 8): rounds, slots and their order, the station's own
transmission, and mute and its end. -/

namespace Sys2Proof.Machine

/-! ### Rounds and slots (R141 to R146) -/

/-- A round anchored at this instant (R141). -/
def Round.fresh : Round := ⟨0, none⟩

/-- The instant a slot begins, in ticks from the round's anchor (R141). -/
def Params.slotStart (p : Params) (k : Nat) : Nat := p.bitTicks * (p.ifg + k * p.slotTime)

/-- The position of an identifier in a round with reference r (R144). -/
def position (slots : Nat) (r : Nat) (x : StationId) : Nat :=
  (((x.val : Int) - (r : Int) - 1) % (slots : Int)).toNat

/-- The identifier that holds a position (R144). -/
def atPosition (slots : Nat) (r : Nat) (p : Nat) : StationId := Fin.ofNat 32 ((r + 1 + p) % slots)

/-- An identifier is in the compact list: a PRESENT peer, or this station while announced (R145, R161). -/
def State.inCompact (s : State) (x : StationId) : Bool :=
  s.peers[x].isPresent || (decide (x = s.cfg.ownId) && s.announced)

/-- The compact list, ordered by position (R145). -/
def State.compactList (s : State) (r : Nat) : List StationId :=
  ((List.range s.cfg.slots).map (atPosition s.cfg.slots r)).filter s.inCompact

/-- The order of the round as it stands at the end of its IFG (R144 to R146, R161).  While the last
sender is unknown every round is OPEN (R142; log 13). -/
def State.roundOrder (s : State) : RoundOrder :=
  match s.line.mode, s.line.lastSender with
  | .normal, some r => ⟨.normal, r.val, s.compactList r.val⟩
  | .normal, none => ⟨.openRound, s.cfg.slots - 1, []⟩
  | .openRound, _ => ⟨.openRound, s.cfg.slots - 1, []⟩

/-- The number of slots of a round (R145, R146). -/
def slotCount (slots : Nat) (o : RoundOrder) : Nat :=
  match o.mode with
  | .normal => o.compact.length + slots
  | .openRound => slots

/-- The slot a station uses (R145, R146). -/
def slotOf (slots : Nat) (o : RoundOrder) (x : StationId) : Nat :=
  match o.mode with
  | .normal =>
    if x ∈ o.compact then o.compact.idxOf x else o.compact.length + position slots o.reference x
  | .openRound => position slots o.reference x

/-- The station's own slot starts at this instant of the round in progress (R148). -/
def State.atOwnSlot (s : State) : Bool :=
  match s.line.round with
  | none => false
  | some r =>
    match r.order with
    | none => false
    | some o => decide (r.elapsed = s.cfg.slotStart (slotOf s.cfg.slots o s.cfg.ownId))

/-- The IFG of the round in progress ends at this instant (R144). -/
def State.atIfgEnd (s : State) : Bool :=
  match s.line.round with
  | none => false
  | some r => r.order.isNone && decide (r.elapsed = s.cfg.slotStart 0)

/-- The round in progress ends at this instant, no carrier having appeared (R141). -/
def State.atRoundEnd (s : State) : Bool :=
  match s.line.round with
  | none => false
  | some r =>
    match r.order with
    | none => false
    | some o => decide (r.elapsed = s.cfg.slotStart (slotCount s.cfg.slots o))

/-- The mode of the round that follows a round with no carrier (R142).  While the last sender is unknown
every round is OPEN (log 13). -/
def modeAfterQuiet (mode : RoundMode) (last : Option StationId) : RoundMode :=
  match mode, last with
  | .normal, some _ => .normal
  | .openRound, some _ => .normal
  | .normal, none => .openRound
  | .openRound, none => .openRound

/-- The order of the round is fixed (R144). -/
def State.fixOrder (s : State) : State :=
  s.withLine { s.line with round := s.line.round.map fun r => { r with order := some s.roundOrder } }

/-- A round with no carrier ends and the next begins (R141, R142). -/
def State.nextRound (s : State) : State :=
  s.withLine { s.line with
    mode := modeAfterQuiet s.line.mode s.line.lastSender, round := some Round.fresh }

/-! ### Carrier and frame ends (R21, R22, R141) -/

/-- The line is quiet. -/
def State.quietLine (s : State) : State := s.withExt { s.ext with carrier := false }

/-- Carrier stands on the line. -/
def State.carrierOn (s : State) : State := s.withExt { s.ext with carrier := true }

/-- The frame end of an episode: the line is quiet, the episode and any arrival capture are gone, and a
round is anchored (R22, R141, R4). -/
def State.frameEnd (s : State) : State :=
  s.quietLine.withLine { s.line with episode := .quiet, round := some Round.fresh }

/-- The mode of the round anchored at a frame end (R142). -/
def State.nextMode (m : RoundMode) (s : State) : State := s.withLine { s.line with mode := m }

/-- The last sender and a NORMAL round (R142, R143). -/
def State.spokeLast (x : StationId) (s : State) : State :=
  s.withLine { s.line with lastSender := some x, mode := .normal }

/-- The frame end of a bad episode (R25, R142). -/
def State.badEnd (s : State) : State := (s.frameEnd.setFlag .lineError).nextMode .openRound

/-! ### Mute (R153, R169, R170) -/

/-- Entry to mute (R169, R153). -/
def State.enterMute (s : State) : State :=
  ((s.withLine { s.line with
      txList := [], attempts := 0, beaconTimer := none, announcedTimer := none }).emptyLatch).setFlag
    .idClash

/-- The frame end of a clash (R27, R169); a clash at a mute station changes nothing in the fault unit. -/
def State.clashEnd (s : State) : State :=
  (if s.mute then s.frameEnd else s.frameEnd.enterMute).spokeLast s.cfg.ownId

/-- The beacon timer starts and a BEACON request joins (R139). -/
def State.startBeacon (s : State) : State :=
  (s.withLine { s.line with beaconTimer := some s.cfg.beaconInterval }).join .beacon

/-- The end of mute (R170, R153, R139). -/
def State.endMute (s : State) : State := s.raiseFullSlots.startBeacon

/-- A CLEAR payload handed to the fault unit (R31, R168, R170). -/
def State.takeClear (f : Frame) (s : State) : State :=
  if f.payload.length ≠ 2 then s.reject .malformed
  else
    let named : BitVec 13 := (field16 f.payload 0).setWidth 13
    if s.mute && flagIn named .idClash then (s.clearFlags named).endMute else s.clearFlags named

/-! ### The station's own transmission (R34, R148 to R152) -/

/-- The header of an own frame in ALL mode with destination 0, or to a prober (R34), its stamp fixed
24 bit times ahead (R3). -/
def State.ownFrame (mode : DestMode) (dest : BitVec 16) (payload : List Byte) (s : State) : Frame :=
  ⟨s.cfg.ownId, mode, dest, s.timebase.busTime + BitVec.ofNat 40 (24 * s.cfg.bitTicks), payload⟩

/-- The payload of an EDGE frame (R34, R119). -/
def edgePayload (n : InputId) (c : Capture) : List Byte :=
  [BitVec.ofNat 8 (n.val * 64) ||| bitAt 5 c.rising ||| bitAt 4 c.overrun, c.count] ++ bytes40 c.time

/-- The payload of a BEACON frame (R34, R65, R176). -/
def State.beaconPayload (s : State) : List Byte :=
  [lifeCode s.loader.life] ++ bytes16 (s.faults.flags.setWidth 16) ++ [BitVec.ofNat 8 s.queue.length]

/-- The payload of a REPORT frame (R34, R173). -/
def reportPayload (m : Snapshot) : List Byte := [m.probeId, selectorCode m.selector] ++ m.body

/-- The frame of a request, built from its owner's state (R34, R119, R173, R176). -/
def State.requestFrame (r : Request) (s : State) : Option (List Byte) :=
  match r with
  | .edge n =>
    s.inputs[n].slot.map fun g => frameBytes 2 (s.ownFrame .all 0 (edgePayload n g.capture))
  | .beacon => some (frameBytes 1 (s.ownFrame .all 0 s.beaconPayload))
  | .report =>
    s.faults.latch.map fun m =>
      frameBytes 8 (s.ownFrame .station (BitVec.ofNat 16 m.prober.val) (reportPayload m))

/-- The ticks from the start of an own frame to its undisturbed frame end: preamble and delimiter, the
bytes, and two bit times after the last bit.  R22 with its note counts them from the last mid-bit transition,
sections 2.5, 7.7 and 8.8 from the end of the last bit; DESIGN CHOICE (log 23), safe: the latter. -/
def Params.frameTicks (p : Params) (bytes : List Byte) : Nat := p.bitTicks * (24 + 8 * bytes.length + 2)

/-- The owner is told that its frame has started (R149, R119). -/
def State.ownerStarts (r : Request) (s : State) : State :=
  match r with
  | .edge n => s.edgeStarts n
  | .report => s
  | .beacon => s

/-- Transmission begins: the frame is built, carrier ends the round, the owner is told (R148, R149). -/
def State.startFrame (r : Request) (bytes : List Byte) (s : State) : State :=
  (s.carrierOn.withLine { s.line with
    episode := .own ⟨bytes, true, s.cfg.frameTicks bytes⟩, round := none }).ownerStarts r

/-- The slot start of the station (R148). -/
def State.slotStarts (s : State) : State :=
  if s.isRunning && !s.mute && s.atOwnSlot then
    match s.line.txList with
    | [] => s
    | r :: _ =>
      match s.requestFrame r with
      | none => s
      | some bytes => s.startFrame r bytes
  else s

/-- The owner is told of a completion (R151 item 2). -/
def State.ownerCompletes (r : Request) (s : State) : State :=
  match r with
  | .edge n => s.edgeCompletes n
  | .report => s.emptyLatch
  | .beacon => s

/-- A waiting BEACON request is withdrawn at the completion of another own frame (R140, R151 item 3). -/
def State.withdrawBeacon (r : Request) (s : State) : State :=
  match r with
  | .edge _ => s.withLine { s.line with txList := s.line.txList.filter fun x => !decide (x = .beacon) }
  | .report => s.withLine { s.line with txList := s.line.txList.filter fun x => !decide (x = .beacon) }
  | .beacon => s

/-- The completion of the head request's frame for its list and owner (R151 items 1 to 3). -/
def State.headCompletes (s : State) : State :=
  match s.line.txList with
  | [] => s
  | r :: _ => (s.popHead.withdrawBeacon r).ownerCompletes r

/-- The timers, the announced flag and the last sender at a completion (R151 items 4 to 6). -/
def State.announce (s : State) : State :=
  (s.withLine { s.line with
    beaconTimer := some s.cfg.beaconInterval,
    announcedTimer := some s.cfg.silenceTime }).spokeLast s.cfg.ownId

/-- The frame end of an own complete episode (R151). -/
def State.completeEnd (s : State) : State := s.frameEnd.headCompletes.announce

/-- The owner is told of an abort to be retried (R152, R121). -/
def State.ownerRetries (r : Request) (s : State) : State :=
  match r with
  | .edge n => s.edgeRetried n
  | .report => s
  | .beacon => s

/-- The owner is told of a drop (R152, R122, R173). -/
def State.ownerDrops (r : Request) (s : State) : State :=
  match r with
  | .edge n => s.edgeDropped n
  | .report => s.emptyLatch
  | .beacon => s

/-- The attempt count is judged and the head request retried or dropped (R152). -/
def State.headAborts (s : State) : State :=
  match s.line.txList with
  | [] => s
  | r :: _ =>
    if s.line.attempts < 7 then
      (s.withLine { s.line with attempts := s.line.attempts + 1 }).ownerRetries r
    else (s.popHead.setFlag .txDropped).ownerDrops r

/-- The frame end of an own aborted episode (R152). -/
def State.abortedEnd (s : State) : State := (s.frameEnd.headAborts).nextMode .openRound

end Sys2Proof.Machine
end

