-- ==== Sys2Proof/Machine/BusClock.lean ====
section
/-! DEFINITION. The timebase (chapter 1): what it does with the lead of a frame it takes, and the expiry of
the far-time candidate. -/

namespace Sys2Proof.Machine

/-- Bus time steps forward by a lead and the queue is told (R8, R10, R16). -/
def State.stepTime (lead : Int) (s : State) : State :=
  let before := s.timebase.busTime
  let after := advance before lead
  (s.withTimebase { s.timebase with busTime := after }).stepNotice before after

/-- What an ordinary step leaves of a held candidate (R10). -/
def reduceCandidate (stepLimit : Nat) (lead : Int) (c : Candidate) : Option Candidate :=
  if (stepLimit : Int) < c.lead - lead then some { c with lead := c.lead - lead } else none

/-- An ordinary step (R10). -/
def State.ordinaryStep (lead : Int) (s : State) : State :=
  let kept := s.timebase.candidate.bind (reduceCandidate s.cfg.stepLimit lead)
  (s.withTimebase { s.timebase with candidate := kept }).stepTime lead

/-- The candidate takes a far frame's lead and a fresh confirm window (R12, R13). -/
def State.holdCandidate (lead : Int) (s : State) : State :=
  s.withTimebase { s.timebase with candidate := some ⟨lead, s.cfg.confirmWindow⟩ }

/-- A confirmed jump (R14). -/
def State.confirmedJump (lead : Int) (s : State) : State :=
  ((s.withTimebase { s.timebase with
      busTime := advance s.timebase.busTime lead, candidate := none }).flushNotice).setFlag .timeJump

/-- A far frame in SYNCED (R12, R13). -/
def State.farLead (lead : Int) (s : State) : State :=
  match s.timebase.candidate with
  | none => s.holdCandidate lead
  | some c =>
    if |lead - c.lead| ≤ (s.cfg.stepLimit : Int) then s.confirmedJump lead
    else (s.holdCandidate lead).setFlag .timeConflict

/-- The timebase acts on the lead of a frame it takes (R8, R9). -/
def State.takeLead (lead : Int) (s : State) : State :=
  match s.timebase.sync with
  | .unsynced => if 0 < lead then s.stepTime lead else s
  | .synced =>
    if lead ≤ (s.cfg.slack : Int) then s
    else if lead ≤ (s.cfg.stepLimit : Int) then s.ordinaryStep lead
    else s.farLead lead

/-- A candidate whose expiry arrives is discarded with TIME_CONFLICT (R15). -/
def State.candidateExpires (s : State) : State :=
  (s.withTimebase { s.timebase with candidate := none }).setFlag .timeConflict

/-- The SYNC line is asserted while the timebase is SYNCED (R18). -/
def State.syncLine (s : State) : Bool := decide (s.timebase.sync = .synced)

end Sys2Proof.Machine
end

