-- ==== Sys2Proof/Machine/Staging.lean ====
section
/-! DEFINITION. The staging slots (chapter 5): STAGE, RELEASE, lapse, and CANCEL in staged scope. -/

namespace Sys2Proof.Machine

/-- The refusal of a STAGE of the right length, checks 1 to 4 in their order, or the program to stage
(R102). -/
def State.judgeStage (p : List Byte) (s : State) : Except RejectReason Program :=
  if s.namesDisabled (byteAt p 0) then .error .badChannel
  else
    match (rawProgramAt p 6).judge with
    | none => .error .badProgram
    | some program =>
      if byteAt p 1 = 0 then .error .malformed
      else if Config.horizon < (field32 p 2).toNat then .error .tooFar
      else .ok program

/-- An accepted STAGE fills the slots of its channel set (R103). -/
def State.fillSlots (f : Frame) (program : Program) (s : State) : State :=
  let staged : Staged :=
    ⟨f.sender, byteAt f.payload 1, field32 f.payload 2, program, s.cfg.stagingLifetime⟩
  s.withStaging (mapFamily
    (fun i slot => if (byteAt f.payload 0).getLsbD i.val then some staged else slot) s.staging)

/-- A STAGE payload handed to the staging slots (R31, R102, R103). -/
def State.takeStage (f : Frame) (s : State) : State :=
  if f.payload.length ≠ 15 then s.reject .malformed
  else
    match s.judgeStage f.payload with
    | .error reason => s.reject reason
    | .ok program => s.fillSlots f program

/-- A slot carries a stage tag (R104). -/
def carriesTag (tag : Byte) : Option Staged → Bool
  | none => false
  | some g => decide (g.tag = tag)

/-- The firing of one collected slot (R105). -/
def releaseFiring (stamp : BusTime) (c : ChannelId) (g : Staged) : Firing :=
  ⟨stamp + g.offset.setWidth 40, ⟨c, g.program, .message g.stager, g.tag⟩⟩

/-- The firings that a RELEASE with this tag and stamp collects, ascending by channel (R104, R105). -/
def State.collected (tag : Byte) (stamp : BusTime) (s : State) : List Firing :=
  (List.finRange 8).filterMap fun c =>
    if carriesTag tag s.staging[c] then s.staging[c].map (releaseFiring stamp c) else none

/-- The slots that carry a tag are emptied (R105). -/
def State.emptySlots (tag : Byte) (s : State) : State :=
  s.withStaging (mapFamily (fun _ slot => if carriesTag tag slot then none else slot) s.staging)

/-- A RELEASE payload handed to the staging slots (R31, R104, R105). -/
def State.takeRelease (f : Frame) (s : State) : State :=
  if f.payload.length ≠ 1 then s.reject .malformed
  else
    match s.collected (byteAt f.payload 0) f.stamp with
    | [] => s
    | first :: rest => (s.emptySlots (byteAt f.payload 0)).offer (first :: rest)

/-- A slot that a CANCEL in staged scope empties on a channel of its set (R108). -/
def cancelsStaged (sender : StationId) (tag : Byte) (g : Staged) : Bool :=
  decide (tag = 0) || (decide (g.tag = tag) && decide (g.stager = sender))

/-- CANCEL in staged scope (R108). -/
def State.cancelStaged (sender : StationId) (set tag : Byte) (s : State) : State :=
  s.withStaging (mapFamily
    (fun i slot =>
      if set.getLsbD i.val then slot.filter (fun g => !cancelsStaged sender tag g) else slot)
    s.staging)

/-- A slot lapses (R106). -/
def State.lapse (c : ChannelId) (s : State) : State :=
  (s.withStaging (s.staging.set c none)).setFlag .stageLapsed

end Sys2Proof.Machine
end

