-- ==== Sys2Proof/Machine/Arrival.lean ====
section
/-! DEFINITION. The arrival of a good frame (R28 to R31): the four stages, the destination filter, and what
the frame end of an episode is by the state of the receiver. -/

namespace Sys2Proof.Machine

/-- The destination filter (R29). -/
def State.matchesDest (s : State) (f : Frame) : Bool :=
  match f.destMode with
  | .station => decide (f.dest.toNat = s.cfg.ownId.val)
  | .groups => decide (f.dest &&& s.cfg.groups ≠ 0)
  | .all => true

/-- Stages 1 to 3 of the arrival of a good frame from a peer (R28): the timebase, the peer table and the
medium-access state, with the frame's lead (R5). -/
def State.stages (f : Frame) (lead : Int) (s : State) : State :=
  ((s.takeLead lead).hearPeer f.sender lead).spokeLast f.sender

/-- The frame's lead against an arrival capture (R5). -/
def State.frameLead (s : State) (f : Frame) (arrival : BusTime) : Int :=
  leadOf f.stamp s.cfg.lineDelay arrival

/-- Stage 4: a matching payload is handed on while the station is RUNNING (R28, R29, R30). -/
def State.handOn (f : Frame) (handed : Frame → State → State) (s : State) : State :=
  if s.isRunning && s.matchesDest f then handed f s else s

/-- The arrival of a good frame from a peer (R28). -/
def State.peerFrame (f : Frame) (handed : Frame → State → State) (arrival : BusTime) (s : State) : State :=
  (s.frameEnd.stages f (s.frameLead f arrival)).handOn f handed

/-- The frame end of a good frame, divided by its sender (R26, R27, R28). -/
def State.goodFrame (f : Frame) (handed : Frame → State → State) (arrival : BusTime) (s : State) : State :=
  if s.cfg.slots ≤ f.sender.val then s.frameEnd
  else if f.sender = s.cfg.ownId then s.clashEnd
  else s.peerFrame f handed arrival

/-- The frame end of an episode on the line, by the state of the receiver.  `judged` is what follows when
the delimiter was found; an episode without it is bad (R25 condition 1), one in progress at entry to
JOINING is not judged, and in LOADING and UNCONFIGURED the receiver is inactive (R22).  A station that
transmits receives no frame, and a quiet line ends none (log 3, log 4). -/
def State.lineFrameEnd (judged : BusTime → State → State) (s : State) : State :=
  if s.active then
    match s.line.episode with
    | .captured arrival => judged arrival s
    | .searching _ => s.badEnd
    | .fragment => s.badEnd
    | .unjudged => s.frameEnd
    | .own _ => s
    | .quiet => s
  else s.quietLine

/-- A frame command: the frame end of a good frame (R25 to R31). -/
def State.receive (f : Frame) (handed : Frame → State → State) (s : State) : State :=
  s.lineFrameEnd (State.goodFrame f handed)

/-- The scope of a CANCEL that waits for the delivery of its instant, if any: the CANCEL carries QUEUE and
OUTPUT scope and the delivery waits at this instant (R59, R95).
DESIGN CHOICE (log 26), safe: which scope waits, if one does, is a free value. -/
def State.waitingScope (s : State) (scope : Byte) : Option CancelScope :=
  if scope.getLsbD 0 ∧ scope.getLsbD 2 ∧ s.scopeLeft = none ∧ .dueDelivery ∈ s.pending then
    Config.scopeWaits s.choice s.timebase.busTime
  else none

/-- A CANCEL is handed to the owner of one of the scopes that a delivery can come between, if its bit is set
(R30): the scope acts now, or it waits. -/
def State.handScope (set : Bool) (waits : Option CancelScope) (l : ScopeLeft) (s : State) : State :=
  if set then
    if waits = some l.scope then s.withScopeLeft (some l) else s.cancelScope l
  else s

/-- A CANCEL payload is handed to each owner whose scope bit is set (R30, R31, R58, R88, R108).  Between its
QUEUE and its OUTPUT scope the delivery of the same instant may fall (R59, R95; log 26). -/
def State.takeCancel (f : Frame) (s : State) : State :=
  if f.payload.length ≠ 3 then s.reject .malformed
  else
    let set := byteAt f.payload 0
    let tag := byteAt f.payload 1
    let scope := byteAt f.payload 2
    let waits := s.waitingScope scope
    let q := s.handScope (scope.getLsbD 0) waits ⟨.queue, f.sender, set, tag⟩
    let g := if scope.getLsbD 1 then q.cancelStaged f.sender set tag else q
    g.handScope (scope.getLsbD 2) waits ⟨.output, f.sender, set, tag⟩

/-- A kind with no owning block: its payload is ignored (R30). -/
def State.ignorePayload (_f : Frame) (s : State) : State := s

end Sys2Proof.Machine
end

