-- ==== Sys2Proof/Machine/Loading.lean ====
section
/-! DEFINITION. Start and restart (chapter 11): the configuration block, its global checks, entry to
UNCONFIGURED, JOINING and RUNNING, and the resets. -/

namespace Sys2Proof.Machine

/-! ### The configuration block (R35) -/

/-- A 16-bit field of the block as a number. -/
def num16 (b : List Byte) (i : Nat) : Nat := (field16 b i).toNat

/-- A byte of the block as a number. -/
def num8 (b : List Byte) (i : Nat) : Nat := (byteAt b i).toNat

/-- The edge select of an input (R35). -/
def selectOf (b : Byte) : EdgeSelect :=
  match b.extractLsb' 4 2 with
  | 0 => .off
  | 1 => .rise
  | 2 => .fall
  | 3 => .both

/-- The sample code of an input (R35). -/
def sampleCode (b : Byte) : Nat := (b.extractLsb' 0 4).toNat

/-- The configuration of input n (R35, R111): codes 0 to 3 give sample periods 1, 4, 16, 64. -/
def inputConfig (b : List Byte) (n : InputId) : InputConfig :=
  ⟨selectOf (byteAt b (27 + 2 * n.val)), 4 ^ sampleCode (byteAt b (27 + 2 * n.val)),
   num8 b (28 + 2 * n.val)⟩

/-- The configuration of channel n (R35, R70). -/
def channelConfig (b : List Byte) (n : ChannelId) : ChannelConfig :=
  ⟨(byteAt b (35 + 2 * n.val)).getLsbD 0, (byteAt b (35 + 2 * n.val)).getLsbD 1, num8 b (36 + 2 * n.val)⟩

/-- The values the blocks take from a valid block (R35, R181), coarse units converted to ticks (R2). -/
def paramsOf (b : List Byte) : Params where
  ownId := Fin.ofNat 32 (num8 b 3)
  slots := num8 b 4
  groups := field16 b 5
  rate := Fin.ofNat 4 (num8 b 7)
  ifg := num8 b 8
  slotTime := num8 b 9
  lineDelay := num8 b 10
  slack := num8 b 11
  stepLimit := num16 b 12 * Config.coarse
  confirmWindow := num16 b 14 * Config.coarse
  lateWindow := num16 b 16
  beaconInterval := num16 b 18 * Config.coarse
  silenceFactor := num8 b 20
  joinWindow := num16 b 21 * Config.coarse
  stagingLifetime := num16 b 23 * Config.coarse
  inputs := Vector.ofFn (inputConfig b)
  channels := Vector.ofFn (channelConfig b)

/-- The fault mask of the block (R165). -/
def maskOf (b : List Byte) : BitVec 13 := (field16 b 25).setWidth 13

/-! ### The global checks (R179) -/

/-- Signature, layout version and block check. -/
def checkFormat (b : List Byte) : Bool :=
  decide (b.length = Config.blockBytes) && decide (byteAt b 0 = 0xC5) && decide (byteAt b 1 = 0x3A) &&
    decide (byteAt b 2 = 1) && decide (crc16 (b.take 320) = field16 b 320)

/-- SLOTS, station identifier, line rate code, IFG and slot time. -/
def checkLine (b : List Byte) : Bool :=
  decide (2 ≤ num8 b 4) && decide (num8 b 4 ≤ 32) && decide (num8 b 3 < num8 b 4) &&
    decide (num8 b 7 ≤ 3) && decide (8 ≤ num8 b 8) && decide (4 ≤ num8 b 9)

/-- The durations, the silence factor and the join window. -/
def checkDurations (b : List Byte) : Bool :=
  decide (1 ≤ num16 b 12) && decide (1 ≤ num16 b 14) && decide (1 ≤ num16 b 18) &&
    decide (1 ≤ num16 b 23) && decide (2 ≤ num8 b 20) && decide (num8 b 20 ≤ 15) &&
    decide (num16 b 18 * num8 b 20 ≤ num16 b 21)

/-- The inputs' sample codes and filter counts. -/
def checkInputs (b : List Byte) : Bool :=
  (List.finRange 4).all fun n =>
    decide (sampleCode (byteAt b (27 + 2 * n.val)) ≤ 3) && decide (1 ≤ num8 b (28 + 2 * n.val)) &&
      decide (num8 b (28 + 2 * n.val) ≤ 15)

/-- The channels' recovery gaps. -/
def checkChannels (b : List Byte) : Bool :=
  (List.finRange 8).all fun n => decide (1 ≤ num8 b (36 + 2 * n.val))

/-- The padding bytes 51 to 63. -/
def checkPadding (b : List Byte) : Bool := ((b.drop 51).take 13).all fun x => decide (x = 0)

/-- The block is valid when every global check holds (R179). -/
def blockValid (b : List Byte) : Bool :=
  checkFormat b && checkLine b && checkDurations b && checkInputs b && checkChannels b && checkPadding b

/-! ### The end of a read (R178 to R181) -/

/-- The read ends and the block is stored; the bits shifted in are in it (R178). -/
def State.endRead (b : List Byte) (s : State) : State :=
  s.withLoader { s.loader with readLeft := none, shift := [], block := b }

/-- Entry to UNCONFIGURED (R180). -/
def State.enterUnconfigured (s : State) : State := s.withLoader { s.loader with life := .unconfigured }

/-- The receiver becomes active: a quiet line anchors the first round, an episode in progress is not
received (R22, R141, R181). -/
def State.openReceiver (s : State) : State :=
  s.withLine { s.line with
    episode := if s.ext.carrier then .unjudged else .quiet,
    round := if s.ext.carrier then none else some Round.fresh }

/-- The blocks take their values from the block (R181, R165, R128). -/
def State.takeValues (b : List Byte) (s : State) : State :=
  (((s.withCfg (paramsOf b)).withBindings (loadBindings (paramsOf b).channels b)).withFaults
    { s.faults with mask := maskOf b }).setFlagIf (rejectsBinding (paramsOf b).channels b) .bindingRejected

/-- Entry to JOINING (R181). -/
def State.enterJoining (b : List Byte) (s : State) : State :=
  ((s.takeValues b).withLoader
    { s.loader with life := .joining, joinLeft := some (paramsOf b).joinWindow }).openReceiver

/-- The loader judges the stored block (R179). -/
def State.judgeBlock (s : State) : State :=
  if blockValid s.loader.block then s.enterJoining s.loader.block else s.enterUnconfigured

/-! ### The end of the join window (R182) -/

/-- Entry to RUNNING (R182, R7, R113, R139). -/
def State.enterRunning (levels : BitVec 4) (s : State) : State :=
  let running := (s.withLoader { s.loader with life := .running, joinLeft := none }).withTimebase
    { s.timebase with sync := .synced }
  let sampled := running.firstSamples levels
  if sampled.mute then sampled else sampled.startBeacon

/-! ### Resets (R183, R184) -/

/-- What a reset leaves outside: an own transmission ends at once, and with it the carrier that the
station itself put on the line (R183; log 18); nothing else changes there (log 8). -/
def State.outsideAfterReset (s : State) : External :=
  match s.line.episode with
  | .own _ => { s.ext with carrier := false }
  | .searching _ => s.ext
  | .captured _ => s.ext
  | .fragment => s.ext
  | .unjudged => s.ext
  | .quiet => s.ext

/-- Every block at its reset value; what waits, what stands outside and the model's own counter are not
the station's (R183; log 8, log 20). -/
def State.hardReset (s : State) : State :=
  ((State.reset.withPending s.pending).withExt s.outsideAfterReset).withChoice s.choice

/-- The read of R178 begins: the loader is LOADING and no longer held. -/
def State.startRead (s : State) : State :=
  s.withLoader { s.loader with held := false, readLeft := some Config.readTicks, shift := [] }

/-- What a RESTART keeps of the fault unit: the flags but ID_CLASH, the mask and the reason (R177). -/
def FaultUnit.afterRestart (u : FaultUnit) : FaultUnit :=
  { u with flags := u.flags &&& ~~~flagBit .idClash, latch := none }

/-- An accepted RESTART (R184). -/
def State.restartNow (s : State) : State :=
  (s.hardReset.withFaults s.faults.afterRestart).startRead

/-- A RESTART payload handed to the loader: only in STATION mode and with no payload (R30, R31, R184). -/
def State.takeRestart (f : Frame) (s : State) : State :=
  if f.destMode = .station ∧ f.payload.length = 0 then s.restartNow else s

end Sys2Proof.Machine
end

