-- ==== Sys2Proof/Machine/FrameCommands.lean ====
section
/-! DEFINITION. The meanings of the good frames (R28, R30).  Each is the arrival of the frame with the payload
handed to the kind's owning block; what a CANCEL or a PROBE does is decided by the frame's own bytes and
the state, the row being named after the outcome (log 4). -/

namespace Sys2Proof.Machine

/-- BEACON (R159). -/
def execBeacon (f : Frame) (s : State) : Result := .next (s.receive f State.takeBeacon)

/-- EDGE (R130). -/
def execEdge (f : Frame) (s : State) : Result := .next (s.receive f State.takeEdgeReport)

/-- SCHEDULE (R47). -/
def execSchedule (f : Frame) (s : State) : Result := .next (s.receive f State.takeSchedule)

/-- STAGE (R102). -/
def execStage (f : Frame) (s : State) : Result := .next (s.receive f State.takeStage)

/-- RELEASE (R104). -/
def execRelease (f : Frame) (s : State) : Result := .next (s.receive f State.takeRelease)

/-- CANCEL_QUEUE (R58). -/
def execCancelQueue (f : Frame) (s : State) : Result := .next (s.receive f State.takeCancel)

/-- CANCEL_STAGED (R108). -/
def execCancelStaged (f : Frame) (s : State) : Result := .next (s.receive f State.takeCancel)

/-- CANCEL_OUTPUT (R88). -/
def execCancelOutput (f : Frame) (s : State) : Result := .next (s.receive f State.takeCancel)

/-- CANCEL_NO_SCOPE (R30). -/
def execCancelNoScope (f : Frame) (s : State) : Result := .next (s.receive f State.takeCancel)

/-- PROBE_STATUS (R174). -/
def execProbeStatus (f : Frame) (s : State) : Result := .next (s.receive f State.takeProbe)

/-- PROBE_PEERS (R160). -/
def execProbePeers (f : Frame) (s : State) : Result := .next (s.receive f State.takeProbe)

/-- PROBE_LEADS_LO (R160). -/
def execProbeLeadsLo (f : Frame) (s : State) : Result := .next (s.receive f State.takeProbe)

/-- PROBE_LEADS_HI (R160). -/
def execProbeLeadsHi (f : Frame) (s : State) : Result := .next (s.receive f State.takeProbe)

/-- PROBE_QUEUE (R65). -/
def execProbeQueue (f : Frame) (s : State) : Result := .next (s.receive f State.takeProbe)

/-- PROBE_IGNORED (R171). -/
def execProbeIgnored (f : Frame) (s : State) : Result := .next (s.receive f State.takeProbe)

/-- CLEAR (R168). -/
def execClear (f : Frame) (s : State) : Result := .next (s.receive f State.takeClear)

/-- RESTART (R184). -/
def execRestart (f : Frame) (s : State) : Result := .next (s.receive f State.takeRestart)

/-- REPORT from another station (R30). -/
def execReport (f : Frame) (s : State) : Result := .next (s.receive f State.ignorePayload)

/-- UNKNOWN_KIND (R30): the kind code plays no part. -/
def execUnknownKind (_kind : BitVec 4) (f : Frame) (s : State) : Result :=
  .next (s.receive f State.ignorePayload)

end Sys2Proof.Machine
end

