-- ==== Sys2Proof/Machine/LineCommands.lean ====
section
/-! DEFINITION. The meanings of the line and round events. -/

namespace Sys2Proof.Machine

/-- CARRIER_START: carrier on a quiet line ends the round and begins an episode; 32 bit times are given
to the search for the delimiter (R141, R20, R21).  An inactive receiver detects none (R22), and carrier
that joins an episode belongs to it. -/
def execCarrierStart (s : State) : Result :=
  .next (if s.active && decide (s.line.episode = .quiet) then
      s.carrierOn.withLine { s.line with
        episode := .searching (32 * s.cfg.bitTicks), round := none }
    else s.carrierOn)

/-- DELIMITER_FOUND: the arrival capture is the bus time at this instant (R4, R21). -/
def execDelimiterFound (s : State) : Result :=
  .next (match s.line.episode with
    | .searching _ => s.withLine { s.line with episode := .captured s.timebase.busTime }
    | .captured _ => s
    | .fragment => s
    | .unjudged => s
    | .own _ => s
    | .quiet => s)

/-- DELIMITER_SEARCH_ENDED: 32 bit times have passed without a delimiter (R21).  A DELIMITER_FOUND of the same
instant counts when it is taken first (log 22). -/
def execDelimiterSearchEnded (s : State) : Result :=
  .next (match s.line.episode with
    | .searching left => if left = 0 then s.withLine { s.line with episode := .fragment } else s
    | .captured _ => s
    | .fragment => s
    | .unjudged => s
    | .own _ => s
    | .quiet => s)

/-- IFG_END: the order of the round is fixed (R144). -/
def execIfgEnd (s : State) : Result := .next (if s.atIfgEnd then s.fixOrder else s)

/-- ROUND_END: a round with no carrier ends after its last slot and the next begins (R141, R142). -/
def execRoundEnd (s : State) : Result := .next (if s.atRoundEnd then s.nextRound else s)

/-- TRANSMIT_START: the start of the station's slot (R148, R149). -/
def execTransmitStart (s : State) : Result := .next s.slotStarts

/-- READBACK_MISMATCH: the station stops driving at once (R150).  DESIGN CHOICE (log 25), safe: the spec does not
say whether the comparison goes on in the two bit times after the last bit; here a mismatch counts until the frame
end. -/
def execReadbackMismatch (s : State) : Result :=
  .next (match s.line.episode with
    | .own t => s.withLine { s.line with episode := .own { t with driving := false } }
    | .searching _ => s
    | .captured _ => s
    | .fragment => s
    | .unjudged => s
    | .quiet => s)

/-- OWN_COMPLETE: the frame end of an own episode whose read-back matched throughout (R151, R22). -/
def execOwnComplete (s : State) : Result :=
  .next (match s.line.episode with
    | .own t => if t.driving ∧ t.left = 0 then s.completeEnd else s
    | .searching _ => s
    | .captured _ => s
    | .fragment => s
    | .unjudged => s
    | .quiet => s)

/-- OWN_ABORTED: the frame end of an own aborted episode (R152). -/
def execOwnAborted (s : State) : Result :=
  .next (match s.line.episode with
    | .own t => if t.driving then s else s.abortedEnd
    | .searching _ => s
    | .captured _ => s
    | .fragment => s
    | .unjudged => s
    | .quiet => s)

/-- BAD_EPISODE: the frame end of an episode that fails a condition of R25. -/
def execBadEpisode (s : State) : Result := .next (s.lineFrameEnd fun _ t => t.badEnd)

/-- FOREIGN_FRAME: the frame end only anchors the next round (R26). -/
def execForeignFrame (s : State) : Result := .next (s.lineFrameEnd fun _ t => t.frameEnd)

/-- CLASH: a good frame with the station's own identifier (R27). -/
def execClash (s : State) : Result := .next (s.lineFrameEnd fun _ t => t.clashEnd)

/-- UNJUDGED_FRAME_END: the frame end of an episode in progress at entry to JOINING (R22); the round mode
stays as it stands (log 21). -/
def execUnjudgedFrameEnd (s : State) : Result :=
  .next (if s.active then
      if s.line.episode = .unjudged then s.frameEnd else s
    else s.quietLine)

end Sys2Proof.Machine
end

