-- ==== Sys2Proof/Machine/StartCommands.lean ====
section
/-! DEFINITION. The meanings of RESET, RESET_RELEASE, READ_END and JOIN_WINDOW_END. -/

namespace Sys2Proof.Machine

/-- RESET: every block in its reset state, held there (R183). -/
def execReset (s : State) : Result := .next s.hardReset

/-- RESET_RELEASE: the first tick after the release starts the count of bus time and the read (R183;
log 6).  A station that is not held has no release to take (log 3). -/
def execResetRelease (s : State) : Result :=
  .next (if s.loader.held then s.startRead else s)

/-- READ_END: at the end of the read the loader stores and judges the block (R178, R179); outside the
end of a read there is none to judge (log 3). -/
def execReadEnd (block : List Byte) (s : State) : Result :=
  .next (if decide (s.loader.life = .loading) && expired s.loader.readLeft then
      (s.endRead block).judgeBlock else s)

/-- JOIN_WINDOW_END: a JOINING station whose join window has run out enters RUNNING (R182). -/
def execJoinWindowEnd (levels : BitVec 4) (s : State) : Result :=
  .next (if decide (s.loader.life = .joining) && expired s.loader.joinLeft then
      s.enterRunning levels else s)

end Sys2Proof.Machine
end

