-- ==== Sys2Proof/Machine/TimedCommands.lean ====
section
/-! DEFINITION. The meanings of the bus tick, the timer expiries and the input samples.  An expiry takes effect
exactly when its timer stands at zero; an expiry whose timer has been restarted or stopped does not occur
(log 3). -/

namespace Sys2Proof.Machine

/-- DUE_DELIVERY: the tick of bus time, with the deliveries it makes due (R53, R1; log 10), and then the scope
of a CANCEL of this instant that these deliveries came before, if one waits (R59, R95; log 26). -/
def execDueDelivery (s : State) : Result := .next (if s.loader.held then s else s.busTick.finishCancel)

/-- ON_PHASE_EXPIRY (R74, R75, R76). -/
def execOnPhaseExpiry (c : ChannelId) (s : State) : Result :=
  .next (if s.channels[c].phase = .on 0 then s.updateChannel c (Channel.onEnds (s.gap c)) else s)

/-- OFF_PHASE_EXPIRY (R75, R76). -/
def execOffPhaseExpiry (c : ChannelId) (s : State) : Result :=
  .next (if s.channels[c].phase = .off 0 then s.updateChannel c (Channel.offEnds (s.gap c)) else s)

/-- RECOVER_EXPIRY (R77). -/
def execRecoverExpiry (c : ChannelId) (s : State) : Result :=
  .next (if s.channels[c].phase = .recover 0 then s.updateChannel c Channel.recoverEnds else s)

/-- BEACON_TIMER_EXPIRY (R139). -/
def execBeaconTimerExpiry (s : State) : Result :=
  .next (if expired s.line.beaconTimer then s.startBeacon else s)

/-- ANNOUNCED_TIMER_EXPIRY (R147). -/
def execAnnouncedTimerExpiry (s : State) : Result :=
  .next (if expired s.line.announcedTimer then
      s.withLine { s.line with announcedTimer := none } else s)

/-- SILENCE_TIMER_EXPIRY (R158). -/
def execSilenceTimerExpiry (x : StationId) (s : State) : Result :=
  .next (if s.peers[x].silenceExpired then s.updatePeer x Peer.fallSilent else s)

/-- The candidate's expiry has arrived (R15). -/
def candidateExpired (c : Option Candidate) : Bool :=
  match c with
  | none => false
  | some k => decide (k.expiry = 0)

/-- CANDIDATE_EXPIRY (R15). -/
def execCandidateExpiry (s : State) : Result :=
  .next (if candidateExpired s.timebase.candidate then s.candidateExpires else s)

/-- A staging slot's lifetime has run out (R106). -/
def lifetimeOver (g : Option Staged) : Bool :=
  match g with
  | none => false
  | some k => decide (k.lifetime = 0)

/-- STAGE_LAPSE (R106). -/
def execStageLapse (c : ChannelId) (s : State) : Result :=
  .next (if lifetimeOver s.staging[c] then s.lapse c else s)

/-- INPUT_SAMPLE: a sample at a sample instant of the input (R113, R114). -/
def execInputSample (n : InputId) (level : Bool) (s : State) : Result :=
  .next (if s.samplesNow n then s.takeSample n level else s)

/-- INPUT_EDGE: the sample that completes an accepted change of a selected direction (R114 to R118;
log 16). -/
def execInputEdge (n : InputId) (level : Bool) (s : State) : Result :=
  .next (if s.samplesNow n && s.edgeNow n level then s.takeSample n level else s)

end Sys2Proof.Machine
end

