-- ==== Sys2Proof/Machine/Dispatch.lean ====
section
/-! DEFINITION. The dispatch of a command to its meaning: one arm per constructor of Instr. -/

namespace Sys2Proof.Machine

def exec (i : Instr) (s : State) : Host.Outcome State Fault Refusal :=
  match i with
  | .reset => Sys2Proof.Machine.execReset s
  | .resetRelease => Sys2Proof.Machine.execResetRelease s
  | .readEnd block => Sys2Proof.Machine.execReadEnd block s
  | .joinWindowEnd levels => Sys2Proof.Machine.execJoinWindowEnd levels s
  | .carrierStart => Sys2Proof.Machine.execCarrierStart s
  | .ifgEnd => Sys2Proof.Machine.execIfgEnd s
  | .roundEnd => Sys2Proof.Machine.execRoundEnd s
  | .transmitStart => Sys2Proof.Machine.execTransmitStart s
  | .readbackMismatch => Sys2Proof.Machine.execReadbackMismatch s
  | .ownComplete => Sys2Proof.Machine.execOwnComplete s
  | .ownAborted => Sys2Proof.Machine.execOwnAborted s
  | .badEpisode => Sys2Proof.Machine.execBadEpisode s
  | .foreignFrame => Sys2Proof.Machine.execForeignFrame s
  | .clash => Sys2Proof.Machine.execClash s
  | .unjudgedFrameEnd => Sys2Proof.Machine.execUnjudgedFrameEnd s
  | .beacon f => Sys2Proof.Machine.execBeacon f s
  | .edge f => Sys2Proof.Machine.execEdge f s
  | .schedule f => Sys2Proof.Machine.execSchedule f s
  | .stage f => Sys2Proof.Machine.execStage f s
  | .release f => Sys2Proof.Machine.execRelease f s
  | .cancelQueue f => Sys2Proof.Machine.execCancelQueue f s
  | .cancelStaged f => Sys2Proof.Machine.execCancelStaged f s
  | .cancelOutput f => Sys2Proof.Machine.execCancelOutput f s
  | .cancelNoScope f => Sys2Proof.Machine.execCancelNoScope f s
  | .probeStatus f => Sys2Proof.Machine.execProbeStatus f s
  | .probePeers f => Sys2Proof.Machine.execProbePeers f s
  | .probeLeadsLo f => Sys2Proof.Machine.execProbeLeadsLo f s
  | .probeLeadsHi f => Sys2Proof.Machine.execProbeLeadsHi f s
  | .probeQueue f => Sys2Proof.Machine.execProbeQueue f s
  | .probeIgnored f => Sys2Proof.Machine.execProbeIgnored f s
  | .clear f => Sys2Proof.Machine.execClear f s
  | .restart f => Sys2Proof.Machine.execRestart f s
  | .report f => Sys2Proof.Machine.execReport f s
  | .unknownKind kind f => Sys2Proof.Machine.execUnknownKind kind f s
  | .inputEdge input level => Sys2Proof.Machine.execInputEdge input level s
  | .dueDelivery => Sys2Proof.Machine.execDueDelivery s
  | .onPhaseExpiry channel => Sys2Proof.Machine.execOnPhaseExpiry channel s
  | .offPhaseExpiry channel => Sys2Proof.Machine.execOffPhaseExpiry channel s
  | .recoverExpiry channel => Sys2Proof.Machine.execRecoverExpiry channel s
  | .beaconTimerExpiry => Sys2Proof.Machine.execBeaconTimerExpiry s
  | .announcedTimerExpiry => Sys2Proof.Machine.execAnnouncedTimerExpiry s
  | .silenceTimerExpiry peer => Sys2Proof.Machine.execSilenceTimerExpiry peer s
  | .candidateExpiry => Sys2Proof.Machine.execCandidateExpiry s
  | .stageLapse channel => Sys2Proof.Machine.execStageLapse channel s
  | .inputSample input level => Sys2Proof.Machine.execInputSample input level s
  | .delimiterFound => Sys2Proof.Machine.execDelimiterFound s
  | .delimiterSearchEnded => Sys2Proof.Machine.execDelimiterSearchEnded s

end Sys2Proof.Machine
end

