-- ==== Sys2Proof/Machine/MemoryRead.lean ====
section
/-! DEFINITION. The memory read (R178): MCK and MDO in the course of a read, and what is shifted in from MDI.
`t` counts the ticks since the read began, 0 to 20,800; the phase and duty of MCK and the delay of MDO are free
values (log 12). -/

namespace Sys2Proof.Machine

/-- The ticks since a read with `left` ticks left began. -/
def readElapsed (left : Nat) : Nat := Config.readTicks - left

/-! ### MCK (R178): one cycle for every 8 ticks, low outside the read -/

/-- The ticks of each cycle in which MCK is high, 1 to 7. -/
def mckHighTicks : Nat := Config.mckHigh.val + 1

/-- The level of MCK. -/
def mckAt (t : Nat) : Bool :=
  decide (t < Config.readTicks) && decide (Config.mckRise.val ≤ t) &&
    decide ((t - Config.mckRise.val) % 8 < mckHighTicks)

/-- MCK rises at this tick. -/
def mckRisesAt (t : Nat) : Bool :=
  decide (t < Config.readTicks) && decide (Config.mckRise.val ≤ t) &&
    decide ((t - Config.mckRise.val) % 8 = 0)

/-! ### MDO (R178) -/

/-- The tick at which MDO changes for the first time: after the first falling edge of MCK and before its
second rising edge. -/
def mdoFirstChange : Nat := Config.mckRise.val + mckHighTicks + Config.mdoDelay % (8 - mckHighTicks)

/-- The number of the bit that stands on MDO: each change brings the next. -/
def mdoBitNumber (t : Nat) : Nat := if t < mdoFirstChange then 0 else (t - mdoFirstChange) / 8 + 1

/-- The 24 command and address bits: 03h, then 0000h. -/
def readCommand : List Bool := byteBits 0x03 ++ byteBits 0 ++ byteBits 0

/-- The level of MDO: the command and address bits in their order; after them the spec gives no level. -/
def mdoAt (t : Nat) : Bool :=
  if mdoBitNumber t < 24 then readCommand.getD (mdoBitNumber t) false else Config.mdoInData (mdoBitNumber t)

/-! ### MDI (R178) -/

/-- The data bit that the attached memory puts on MDI in data cycle j: most significant first, from
address 0 on. -/
def mdiBit (m : List Host.Cell) (j : Nat) : Bool := (memoryByte m (j / 8)).getLsbD (7 - j % 8)

/-- The bits shifted in after a tick that leaves this much of a read: at each rising edge of MCK after the
24 command and address cycles the level at MDI joins them. -/
def shiftAfter (m : List Host.Cell) (left : Option Nat) (shift : List Bool) : List Bool :=
  match left with
  | none => shift
  | some n =>
    if mckRisesAt (readElapsed n) && decide (24 ≤ readElapsed n / 8) then
      shift ++ [mdiBit m (readElapsed n / 8 - 24)]
    else shift

/-- The data bits shifted in by tick t of a read. -/
def dataSamples (t : Nat) : Nat := min 2576 ((t + 8 - Config.mckRise.val) / 8 - 24)

/-- The bytes that the bits shifted in make. -/
def shiftedBytes (shift : List Bool) : List Byte := (bytesOfBits shift).getD []

end Sys2Proof.Machine
end

