-- ==== Sys2Proof/Machine/Tick.lean ====
section
/-! DEFINITION. The tick of the local reference (R1 and every rule that counts local ticks): the timers count
down, the events that the tick brings are put into the queue, and bus time advances.  It is what a step
does on an empty queue (log 1). -/

namespace Sys2Proof.Machine

/-! ### Every timer counts one tick -/

/-- The loader's timers, and the memory read in progress with this memory attached (R178, R181). -/
def Loader.tick (m : List Host.Cell) (l : Loader) : Loader :=
  { l with
    readLeft := tickTimer l.readLeft
    shift := shiftAfter m (tickTimer l.readLeft) l.shift
    joinLeft := tickTimer l.joinLeft }

/-- The candidate's expiry comes nearer (R11). -/
def Candidate.tick (c : Candidate) : Candidate := { c with expiry := c.expiry - 1 }

/-- The delimiter search and an own transmission run on (R21, R22). -/
def Episode.tick (e : Episode) : Episode :=
  match e with
  | .searching left => .searching (left - 1)
  | .own t => .own { t with left := t.left - 1 }
  | .captured arrival => .captured arrival
  | .fragment => .fragment
  | .unjudged => .unjudged
  | .quiet => .quiet

/-- The round in progress grows (R141). -/
def Round.tick (r : Round) : Round := { r with elapsed := r.elapsed + 1 }

/-- The line controller's timers (R139, R147, R141, R21, R22). -/
def Line.tick (l : Line) : Line :=
  { l with
    episode := l.episode.tick
    beaconTimer := tickTimer l.beaconTimer
    announcedTimer := tickTimer l.announcedTimer
    round := l.round.map Round.tick }

/-- An input's sample timer (R113). -/
def Input.tick (i : Input) : Input := { i with sampleTimer := tickTimer i.sampleTimer }

/-- A staging slot's lifetime timer (R101). -/
def Staged.tick (g : Staged) : Staged := { g with lifetime := g.lifetime - 1 }

/-- Every timer of the station counts one tick; bus time apart. -/
def State.countDown (s : State) : State :=
  ((((((s.withLoader (s.loader.tick s.ext.memory)).withTimebase
    { s.timebase with candidate := s.timebase.candidate.map Candidate.tick }).withLine s.line.tick).withPeers
      (mapFamily (fun _ p => p.tick) s.peers)).withInputs (mapFamily (fun _ i => i.tick) s.inputs)).withStaging
        (mapFamily (fun _ g => g.map Staged.tick) s.staging)).withChannels
          (mapFamily (fun _ c => c.tick) s.channels)

/-! ### The events a tick brings -/

/-- An event, when it is brought. -/
def raised (cause : Bool) (e : Instr) : List Instr := if cause then [e] else []

/-- The levels at the inputs as a set (R113). -/
def State.tinLevels (s : State) : BitVec 4 :=
  BitVec.ofNat 4 ((s.ext.tin.toList.zipIdx.map fun p => if p.1 then 2 ^ p.2 else 0).sum)

/-- The expiry of a channel's phase (R74, R75, R77). -/
def channelEvents (c : ChannelId) (p : Phase) : List Instr :=
  match p with
  | .on n => raised (decide (n = 0)) (.onPhaseExpiry c)
  | .off n => raised (decide (n = 0)) (.offPhaseExpiry c)
  | .recover n => raised (decide (n = 0)) (.recoverExpiry c)
  | .idle => []
  | .hold => []

/-- The end of an undisturbed own frame, and the end of a delimiter search (R151, R22, R21). -/
def episodeEvents (e : Episode) : List Instr :=
  match e with
  | .searching left => raised (decide (left = 0)) .delimiterSearchEnded
  | .own t => raised (t.driving && decide (t.left = 0)) .ownComplete
  | .captured _ => []
  | .fragment => []
  | .unjudged => []
  | .quiet => []

/-- A sample instant of an input: INPUT_EDGE when the sample completes an edge, INPUT_SAMPLE otherwise
(R114, R115; log 16). -/
def State.sampleEvent (n : InputId) (level : Bool) (s : State) : Instr :=
  if s.edgeNow n level then .inputEdge n level else .inputSample n level

/-- The events that the timers of a counted-down state bring, the slot start apart. -/
def State.expiries (s : State) : List Instr :=
  raised (expired s.loader.readLeft) (.readEnd (shiftedBytes s.loader.shift))
    ++ raised (expired s.loader.joinLeft) (.joinWindowEnd s.tinLevels)
    ++ raised (candidateExpired s.timebase.candidate) .candidateExpiry
    ++ raised (expired s.line.beaconTimer) .beaconTimerExpiry
    ++ raised (expired s.line.announcedTimer) .announcedTimerExpiry
    ++ episodeEvents s.line.episode
    ++ raised s.atIfgEnd .ifgEnd
    ++ raised s.atRoundEnd .roundEnd
    ++ (List.finRange 32).flatMap (fun x => raised s.peers[x].silenceExpired (.silenceTimerExpiry x))
    ++ (List.finRange 4).flatMap
        (fun n => raised (expired s.inputs[n].sampleTimer) (s.sampleEvent n s.ext.tin[n]))
    ++ (List.finRange 8).flatMap (fun c => raised (lifetimeOver s.staging[c]) (.stageLapse c))
    ++ (List.finRange 8).flatMap (fun c => channelEvents c s.channels[c].phase)

/-- The station's slot may start at this instant: it does by the fixed order, or the order is about to be
fixed and slot 0 starts with it (R141, R144, R148). -/
def State.slotMayStart (s : State) : Bool := s.atOwnSlot || s.atIfgEnd

/-- Some entry falls due at the coming tick of bus time (R53). -/
def State.dueNext (s : State) : Bool :=
  s.queue.any fun e => decide (e.fireTime = s.timebase.busTime + 1)

/-! ### The order of the events of one instant (log 2) -/

/-- The events of one instant in a free order: each stands at a free place among those after it. -/
def arrange : Nat → List Instr → List Instr
  | _, [] => []
  | _, [e] => [e]
  | n, e :: e' :: rest =>
    (arrange (n + 1) (e' :: rest)).insertIdx
      (Config.order n % ((arrange (n + 1) (e' :: rest)).length + 1)) e

/-- The first place a slot start may take among the events of its instant: after the end of the IFG, if
that is one of them (R144). -/
def slotPlace (l : List Instr) : Nat := if .ifgEnd ∈ l then l.idxOf .ifgEnd + 1 else 0

/-- The slot start stands at a free place, but not before the end of the IFG. -/
def placeSlotStart (n : Nat) (l : List Instr) : List Instr :=
  l.insertIdx (slotPlace l + Config.order n % (l.length - slotPlace l + 1)) .transmitStart

/-- The events of one instant, the tick of bus time among them, in their free order. -/
def State.instant (s : State) : List Instr :=
  let events := arrange s.choice (.dueDelivery :: s.expiries)
  if s.slotMayStart then placeSlotStart (s.choice + events.length) events else events

/-! ### The tick -/

/-- Nothing else happens at this tick: bus time advances alone. -/
def State.quietTick (s : State) : Bool := s.expiries.isEmpty && !s.slotMayStart && !s.dueNext

/-- Bus time advances by one, no entry being due (R1). -/
def State.advanceBusTime (s : State) : State :=
  s.withTimebase { s.timebase with busTime := s.timebase.busTime + 1 }

/-- A tick with events: they wait in the queue in their free order, the tick of bus time among them. -/
def State.raiseEvents (s : State) : State :=
  (s.withPending s.instant).withChoice (s.choice + s.instant.length)

/-- The tick of the local reference on an empty queue.  A station held in RESET counts nothing (R183). -/
def State.localTick (s : State) : State :=
  if s.loader.held then s
  else if s.countDown.quietTick then s.countDown.advanceBusTime
  else s.countDown.raiseEvents

end Sys2Proof.Machine
end

