-- ==== Sys2Proof/Machine/Pins.lean ====
section
/-! DEFINITION. The output pins as views of the state (00_scope.md section 3, 11_start_and_restart.md 11.7). -/

namespace Sys2Proof.Machine

/-- The outputs are driven while the station is JOINING or RUNNING (R72, R98, R99). -/
def State.outputsDriven (s : State) : Bool := s.active

/-- The level at TOUTn, true for high; none while it is not driven (R70, R72). -/
def State.tout (s : State) (c : ChannelId) : Option Bool :=
  if s.outputsDriven then some (xor s.channels[c].active s.cfg.channels[c].activeLow) else none

/-- LTXE is driven from the start of an own frame until its abort (R149, R150) or the end of its last bit, two
bit times before its frame end.  DESIGN CHOICE (log 24), safe: the spec does not say when an undisturbed frame
releases it. -/
def State.ltxe (s : State) : Bool :=
  match s.line.episode with
  | .own t => t.driving && decide (2 * s.cfg.bitTicks < t.left)
  | .searching _ => false
  | .captured _ => false
  | .fragment => false
  | .unjudged => false
  | .quiet => false

/-- The bits of the own frame on LTX, preamble and delimiter first (R149, R20, R21). -/
def State.ltxBits (s : State) : Option (List Bool) :=
  match s.line.episode with
  | .own t => if t.driving then some (lineBits t.bytes) else none
  | .searching _ => none
  | .captured _ => none
  | .fragment => none
  | .unjudged => none
  | .quiet => none

/-- The level at LTX, true for high, while LTXE is driven: each bit of the frame as the levels of its two halves
(R20, R149); none while it is not driven. -/
def State.ltx (s : State) : Option Bool :=
  match s.line.episode with
  | .own t =>
    if s.ltxe then
      (lineLevels t.bytes)[(s.cfg.frameTicks t.bytes - t.left) / (s.cfg.bitTicks / 2)]?
    else none
  | .searching _ => none
  | .captured _ => none
  | .fragment => none
  | .unjudged => none
  | .quiet => none

/-- MCS is asserted during a read (R178). -/
def State.mcs (s : State) : Bool := s.loader.readLeft.isSome

/-- MDO, held low outside a read (R178; log 12). -/
def State.mdo (s : State) : Bool :=
  match s.loader.readLeft with
  | none => false
  | some left => mdoAt (readElapsed left)

/-- MCK, held low outside a read (R178; log 12). -/
def State.mck (s : State) : Bool :=
  match s.loader.readLeft with
  | none => false
  | some left => mckAt (readElapsed left)

end Sys2Proof.Machine
end

