-- ==== Sys2Proof/Safety.lean ====
section
/-! DEFINITION. What holds of the station at every instant: the properties that the spec states of every
state and that every step is to keep. -/

namespace Sys2Proof.Machine

/-! ### The life state and what the blocks hold in it (R7, R11, R178 to R184) -/

/-- The loader's records and the timebase state follow the life state (R7, R11, R178, R181, R183). -/
structure LoaderSound (s : State) : Prop where
  syncedIffRunning : s.timebase.sync = .synced ↔ s.loader.life = .running
  candidateOnlyRunning : s.timebase.candidate.isSome = true → s.loader.life = .running
  heldIsLoading : s.loader.held = true → s.loader.life = .loading
  readIffLoading : s.loader.readLeft.isSome = true ↔ s.loader.life = .loading ∧ s.loader.held = false
  joinIffJoining : s.loader.joinLeft.isSome = true ↔ s.loader.life = .joining

/-- What a station that is not RUNNING holds: an empty queue, empty staging slots, IDLE channels, inputs
not sampled, no request, no snapshot, stopped timers and no own transmission (R66, R99, R110, R126, R137,
R139, R147, R171). -/
structure NotRunningEmpty (s : State) : Prop where
  queueEmpty : s.queue = []
  stagingEmpty : ∀ c : ChannelId, s.staging[c] = none
  channelsIdle : ∀ c : ChannelId, s.channels[c] = Channel.atReset
  inputsAtReset : ∀ n : InputId, s.inputs[n] = Input.atReset
  noRequest : s.line.txList = []
  noSnapshot : s.faults.latch = none
  beaconStopped : s.line.beaconTimer = none
  notAnnounced : s.line.announcedTimer = none
  notTransmitting : ∀ t, s.line.episode ≠ .own t

/-- What a LOADING or UNCONFIGURED station holds besides: an inactive receiver, no round, absent peers and
disabled bindings (R22, R141, R129, R162). -/
structure InactiveEmpty (s : State) : Prop where
  receiverInactive : s.line.episode = .quiet
  noRound : s.line.round = none
  peersAbsent : ∀ x : StationId, s.peers[x] = Peer.atReset
  bindingsDisabled : ∀ i : BindingId, s.bindings[i] = none

/-- The blocks conduct themselves as the life state says (11_start_and_restart.md 11.1). -/
structure LifeConduct (s : State) : Prop where
  loader : LoaderSound s
  notRunning : s.loader.life ≠ .running → NotRunningEmpty s
  inactive : s.active = false → InactiveEmpty s

/-! ### The memory read (R178) -/

/-- The memory read: what has been shifted in is what the attached memory gave, a bit for each rising edge of
MCK since the read command, and nothing is held outside a read. -/
structure ReadSound (s : State) : Prop where
  shifted : ∀ n, s.loader.readLeft = some n → n ≤ Config.readTicks ∧
    s.loader.shift = (List.range (dataSamples (readElapsed n))).map (mdiBit s.ext.memory)
  idle : s.loader.readLeft = none → s.loader.shift = []

/-! ### The cue queue (R38 to R40) -/

/-- The cue queue holds at most 32 entries in order of fire time, each at least one tick and at most the
horizon ahead of bus time, and no two with one message key. -/
structure QueueSound (s : State) : Prop where
  capacity : s.queue.length ≤ 32
  span : ∀ e ∈ s.queue, 0 < signedDiff e.fireTime s.timebase.busTime ∧
    signedDiff e.fireTime s.timebase.busTime ≤ 2 ^ 31
  ordered : s.queue.Pairwise fun a b => later a.fireTime b.fireTime = false
  keysDistinct : s.queue.Pairwise fun a b => a.content.key.isSome = true → a.content.key ≠ b.content.key

/-! ### Requests and their owners (R112, R137 to R139, R171) -/

/-- The transmit list against its owners: at most one request of each kind and none unless RUNNING and not
mute; the attempt count; an EDGE request exactly while the slot is full, a REPORT request exactly while the
latch is; the beacon timer runs exactly while RUNNING and not mute; a follow-on only behind a slot in
flight; an own transmission only at a RUNNING station that is not mute and has a request. -/
structure RequestsSound (s : State) : Prop where
  nodup : s.line.txList.Nodup
  onlyRunning : s.line.txList ≠ [] → s.loader.life = .running ∧ s.mute = false
  attemptsBound : s.line.attempts ≤ 7
  attemptsEmpty : s.line.txList = [] → s.line.attempts = 0
  reportIffLatch : Request.report ∈ s.line.txList ↔ s.faults.latch.isSome = true
  edgeIffSlot : s.loader.life = .running → s.mute = false →
    ∀ n : InputId, Request.edge n ∈ s.line.txList ↔ s.inputs[n].slot.isSome = true
  slotOnlyRunning : s.loader.life ≠ .running →
    ∀ n : InputId, s.inputs[n].slot = none ∧ s.inputs[n].followOn = none
  followOnInFlight : ∀ n : InputId, s.inputs[n].followOn.isSome = true → s.inputs[n].slotInFlight = true
  beaconTimerRuns : s.line.beaconTimer.isSome = true ↔ s.loader.life = .running ∧ s.mute = false
  announcedRuns : s.line.announcedTimer.isSome = true → s.loader.life = .running ∧ s.mute = false
  ownTransmission : ∀ t, s.line.episode = .own t →
    s.loader.life = .running ∧ s.mute = false ∧ s.line.txList ≠ []

/-! ### Channels (R71, R78, R82, R87, R97) -/

/-- A channel context is as R71 lays it out: no program, remaining count, waiting firing or overwritten
marker in IDLE; a non-level program in ON, a TRAIN or SQUARE in OFF, a LEVEL_ON and nothing waiting in HOLD;
a program other than LEVEL_OFF in RECOVER. -/
def Channel.sound (c : Channel) : Prop :=
  match c.phase with
  | .idle => c.running = none ∧ c.remaining = none ∧ c.waiting = none ∧ c.overwritten = false
  | .on _ => ∃ p, c.running = some p ∧ p.kind ≠ .levelOn ∧ p.kind ≠ .levelOff
  | .off _ => ∃ p, c.running = some p ∧ (p.kind = .train ∨ p.kind = .square)
  | .recover _ => ∃ p, c.running = some p ∧ p.kind ≠ .levelOff
  | .hold => ∃ p, c.running = some p ∧ p.kind = .levelOn ∧ c.remaining = none ∧ c.waiting = none

/-- A waiting firing is never a level firing (R82). -/
def Channel.waitingNonLevel (c : Channel) : Prop :=
  ∀ w, c.waiting = some w → w.program.kind ≠ .levelOn ∧ w.program.kind ≠ .levelOff

/-- Every channel context is sound. -/
def ChannelsSound (s : State) : Prop :=
  ∀ c : ChannelId, s.channels[c].sound ∧ s.channels[c].waitingNonLevel

/-! ### Identifiers and peers (R35, R142, R143, R157) -/

/-- The identifiers the station keeps: its own and the last sender are less than SLOTS, an unknown last
sender means OPEN rounds, and the entries of its own identifier and of identifiers not less than SLOTS stay
ABSENT with nothing recorded. -/
structure PeersSound (s : State) : Prop where
  ownInRing : s.active = true → s.cfg.ownId.val < s.cfg.slots ∧ 2 ≤ s.cfg.slots ∧ s.cfg.slots ≤ 32
  lastInRing : ∀ x, s.line.lastSender = some x → s.active = true ∧ x.val < s.cfg.slots
  unknownIsOpen : s.line.lastSender = none → s.line.mode = .openRound
  outsideAbsent : ∀ x : StationId, (s.active = false ∨ x = s.cfg.ownId ∨ s.cfg.slots ≤ x.val) →
    s.peers[x] = Peer.atReset

/-! ### Rounds and episodes (R22, R141) -/

/-- Carrier episodes and rounds alternate: an active station keeps a round exactly while no carrier episode
is in progress, and carrier stands exactly while one is; an inactive station has neither round nor episode. -/
structure RoundsSound (s : State) : Prop where
  roundIffQuiet : s.active = true → (s.line.round.isSome = true ↔ s.line.episode = .quiet)
  carrierIffEpisode : s.active = true → (s.ext.carrier = true ↔ s.line.episode ≠ .quiet)
  inactiveNone : s.active = false → s.line.round = none ∧ s.line.episode = .quiet

/-! ### Staging slots (R100, R106) -/

/-- A filled staging slot carries a nonzero tag, an offset of at most the horizon, and a lifetime of at most
the staging lifetime; and none is filled unless the station is RUNNING. -/
def StagingSound (s : State) : Prop :=
  ∀ (c : ChannelId) (g : Staged), s.staging[c] = some g →
    s.loader.life = .running ∧ g.tag ≠ 0 ∧ g.offset.toNat ≤ 2 ^ 31 ∧ g.lifetime ≤ s.cfg.stagingLifetime

/-! ### Disabled channels (R47, R70, R102, R128) -/

/-- No stored entry, staged firing or binding names a disabled channel, a disabled channel is at rest, and
a station whose receiver is inactive holds none of these. -/
structure DisabledChannelsRest (s : State) : Prop where
  entries : ∀ e ∈ s.queue, s.cfg.channels[e.content.channel].enabled = true
  slots : ∀ c : ChannelId, s.staging[c].isSome = true → s.cfg.channels[c].enabled = true
  bindings : ∀ (i : BindingId) (b : Binding), s.bindings[i] = some b →
    s.cfg.channels[b.content.channel].enabled = true
  rest : ∀ c : ChannelId, s.cfg.channels[c].enabled = false → s.channels[c] = Channel.atReset
  inactiveNone : s.active = false → s.queue = [] ∧ (∀ c : ChannelId, s.staging[c] = none) ∧
    (∀ i : BindingId, s.bindings[i] = none) ∧ ∀ c : ChannelId, s.channels[c] = Channel.atReset

/-! ### The arrival of a good frame from a peer (R28 to R30) -/

/-- A good frame from a peer ends at a JOINING or RUNNING station that has captured its arrival (R28). -/
structure Arrives (f : Frame) (a : BusTime) (s : State) : Prop where
  active : s.active = true
  captured : s.line.episode = .captured a
  inRing : f.sender.val < s.cfg.slots
  notOwn : f.sender ≠ s.cfg.ownId

/-- The arriving frame's payload is handed on: it matches the destination filter and the station is RUNNING
(R29, R30). -/
structure HandedOn (f : Frame) (a : BusTime) (s : State) : Prop extends Arrives f a s where
  running : s.loader.life = .running
  meant : s.matchesDest f = true

/-- The state after the frame end and stages 1 to 3 of the arrival (R28). -/
def State.arrived (f : Frame) (a : BusTime) (s : State) : State :=
  s.frameEnd.stages f (s.frameLead f a)

/-- The state with a rejection recorded: the reason over the one before, and a flag set (R167). -/
def State.rejected (r : RejectReason) (f : Flag) (s : State) : State :=
  { s with faults := { s.faults with reason := r, flags := s.faults.flags ||| flagBit f } }

end Sys2Proof.Machine
end

