-- ==== Sys2Proof/Certificates/Slice0/Obligations.lean ====
section
/-! DEFINITION. The statements for the provers.  `f` is a good frame, `a` an arrival capture; `s.arrived f a` is
the state after stages 1 to 3 of a frame's arrival, which ArrivalStages and the lead statements describe. -/

section
open Sys2Proof Sys2Proof.Machine

/-! ### One step -/

/-- A step with commands waiting runs the front one on the state with the queue's rest. -/
def Obligations.StepRunsTheFrontCommand : Prop :=
  ∀ (c : Instr) (rest : List Instr) (s : State), s.pending = c :: rest →
    step s = exec c { s with pending := rest }

/-- Every command answers a next state and leaves the waiting commands and the counter of free orders (the
model's own fields; log 19, log 2); no step writes the configuration memory; and the configuration values change
only at RESET, RESTART and READ_END. -/
def Obligations.WhatNoCommandTouches : Prop :=
  (∀ (c : Instr) (s : State), ∃ t, exec c s = .next t ∧ t.pending = s.pending ∧ t.choice = s.choice) ∧
  ((∀ s t : State, step s = .next t → t.ext.memory = s.ext.memory) ∧
   (∀ (c : Instr) (s t : State), exec c s = .next t → t.cfg = s.cfg ∨ c = .reset ∨
     (∃ b, c = .readEnd b) ∨ ∃ f, c = .restart f))

/-- A step with no command waiting is one tick (the model's choice, log 1): a held station stands still; a tick
that brings no event advances bus time; any other tick puts exactly its events into the queue, in some order
(log 2), a slot start never before the end of its round's IFG. -/
def Obligations.EmptyQueueIsOneTick : Prop :=
  ∀ s : State, s.pending = [] →
    (s.loader.held = true → step s = .next s) ∧
    (s.loader.held = false → s.countDown.expiries = [] → s.countDown.slotMayStart = false →
      s.countDown.dueNext = false →
      step s = .next { s.countDown with
        timebase := { s.countDown.timebase with busTime := s.timebase.busTime + 1 } }) ∧
    (s.loader.held = false →
      (s.countDown.expiries ≠ [] ∨ s.countDown.slotMayStart = true ∨ s.countDown.dueNext = true) →
      ∃ l n, step s = .next { s.countDown with pending := l, choice := n } ∧
        l.Perm (.dueDelivery :: s.countDown.expiries ++
          (if s.countDown.slotMayStart then [.transmitStart] else [])) ∧
        (s.countDown.slotMayStart = true → .ifgEnd ∈ l → l.idxOf .ifgEnd < l.idxOf .transmitStart))

/-- A tick takes one from every running timer, adds one to the round in progress, shifts in the level at MDI at a
rising edge of MCK past the 24 command and address cycles (MDI is the attached memory's, log 9), and changes
nothing else but bus time and the commands it brings (the model's choice of the tick, log 1). -/
def Obligations.TickCountsEveryTimer : Prop :=
  ∀ s t : State, s.pending = [] → s.loader.held = false → step s = .next t →
    t.loader = { s.loader with
      readLeft := s.loader.readLeft.map (· - 1), joinLeft := s.loader.joinLeft.map (· - 1),
      shift := t.loader.shift } ∧
    (s.loader.readLeft = none → t.loader.shift = s.loader.shift) ∧
    (∀ n, s.loader.readLeft = some n →
      let cycle := (20800 - (n - 1)) / 8
      let rises := s.mck = false ∧ t.mck = true
      (rises ∧ 24 ≤ cycle → t.loader.shift = s.loader.shift ++
        [(memoryByte s.ext.memory ((cycle - 24) / 8)).getLsbD (7 - (cycle - 24) % 8)]) ∧
      (¬(rises ∧ 24 ≤ cycle) → t.loader.shift = s.loader.shift)) ∧
    t.timebase.sync = s.timebase.sync ∧
    t.timebase.candidate = s.timebase.candidate.map (fun c => { c with expiry := c.expiry - 1 }) ∧
    t.line.beaconTimer = s.line.beaconTimer.map (· - 1) ∧
    t.line.announcedTimer = s.line.announcedTimer.map (· - 1) ∧
    t.line.round = s.line.round.map (fun r => { r with elapsed := r.elapsed + 1 }) ∧
    (∀ n, s.line.episode = .searching n → t.line.episode = .searching (n - 1)) ∧
    (∀ x, s.line.episode = .own x → t.line.episode = .own { x with left := x.left - 1 }) ∧
    ((∀ n, s.line.episode ≠ .searching n) → (∀ x, s.line.episode ≠ .own x) →
      t.line.episode = s.line.episode) ∧
    t.line.txList = s.line.txList ∧ t.line.attempts = s.line.attempts ∧
    t.line.lastSender = s.line.lastSender ∧ t.line.mode = s.line.mode ∧
    (∀ (x : StationId) n, s.peers[x].presence = .present n →
      t.peers[x] = { s.peers[x] with presence := .present (n - 1) }) ∧
    (∀ x : StationId, (∀ n, s.peers[x].presence ≠ .present n) → t.peers[x] = s.peers[x]) ∧
    (∀ n : InputId, t.inputs[n] =
      { s.inputs[n] with sampleTimer := s.inputs[n].sampleTimer.map (· - 1) }) ∧
    (∀ c : ChannelId, t.staging[c] = s.staging[c].map (fun g => { g with lifetime := g.lifetime - 1 })) ∧
    (∀ (c : ChannelId) n, s.channels[c].phase = .on n →
      t.channels[c] = { s.channels[c] with phase := .on (n - 1) }) ∧
    (∀ (c : ChannelId) n, s.channels[c].phase = .off n →
      t.channels[c] = { s.channels[c] with phase := .off (n - 1) }) ∧
    (∀ (c : ChannelId) n, s.channels[c].phase = .recover n →
      t.channels[c] = { s.channels[c] with phase := .recover (n - 1) }) ∧
    (∀ c : ChannelId, (s.channels[c].phase = .idle ∨ s.channels[c].phase = .hold) →
      t.channels[c] = s.channels[c]) ∧
    t.ext = s.ext ∧ t.cfg = s.cfg ∧ t.bindings = s.bindings ∧ t.queue = s.queue ∧ t.faults = s.faults ∧
    t.scopeLeft = s.scopeLeft

/-- The events that a tick brings besides the tick of bus time are exactly those whose timer the count has brought
to zero, or whose instant of the round, of the read or of the sampling has come (the model's reading of the
rules that count ticks, log 1; a sample comes as INPUT_SAMPLE or INPUT_EDGE, log 16).  The slot start stands
beside them: it may come exactly when the round stands at the start of the station's own slot with its order
fixed, or at the end of its IFG, when slot 0 may start with it.  A read that runs with one memory attached ends
with the READ_END of that memory's bytes. -/
def Obligations.TickBringsWhatFallsDue : Prop :=
  (∀ (s : State) (x : StationId) (n : InputId) (c : ChannelId) (b : List Byte) (v : BitVec 4) (level : Bool),
    (.readEnd b ∈ s.expiries ↔ s.loader.readLeft = some 0 ∧ b = (bytesOfBits s.loader.shift).getD []) ∧
    (.joinWindowEnd v ∈ s.expiries ↔ s.loader.joinLeft = some 0 ∧
      ∀ m : InputId, v.getLsbD m.val = s.ext.tin[m]) ∧
    (.candidateExpiry ∈ s.expiries ↔ ∃ l, s.timebase.candidate = some ⟨l, 0⟩) ∧
    (.beaconTimerExpiry ∈ s.expiries ↔ s.line.beaconTimer = some 0) ∧
    (.announcedTimerExpiry ∈ s.expiries ↔ s.line.announcedTimer = some 0) ∧
    (.ownComplete ∈ s.expiries ↔ ∃ y, s.line.episode = .own y ∧ y.driving = true ∧ y.left = 0) ∧
    (.delimiterSearchEnded ∈ s.expiries ↔ s.line.episode = .searching 0) ∧
    (.ifgEnd ∈ s.expiries ↔ s.line.round = some ⟨s.cfg.bitTicks * s.cfg.ifg, none⟩) ∧
    (.roundEnd ∈ s.expiries ↔ ∃ o, s.line.round = some ⟨s.cfg.slotStart (slotCount s.cfg.slots o), some o⟩) ∧
    (.silenceTimerExpiry x ∈ s.expiries ↔ s.peers[x].presence = .present 0) ∧
    ((.inputSample n level ∈ s.expiries ∨ .inputEdge n level ∈ s.expiries) ↔
      s.inputs[n].sampleTimer = some 0 ∧ level = s.ext.tin[n]) ∧
    (.stageLapse c ∈ s.expiries ↔ ∃ g, s.staging[c] = some g ∧ g.lifetime = 0) ∧
    (.onPhaseExpiry c ∈ s.expiries ↔ s.channels[c].phase = .on 0) ∧
    (.offPhaseExpiry c ∈ s.expiries ↔ s.channels[c].phase = .off 0) ∧
    (.recoverExpiry c ∈ s.expiries ↔ s.channels[c].phase = .recover 0) ∧
    (∀ e ∈ s.expiries, frameOf e = none ∧ e ∉ [.reset, .resetRelease, .carrierStart, .transmitStart,
      .readbackMismatch, .ownAborted, .badEpisode, .foreignFrame, .clash, .unjudgedFrameEnd, .dueDelivery,
      .delimiterFound])) ∧
  (∀ s : State, s.slotMayStart = true ↔
    (∃ o, s.line.round = some
      ⟨s.cfg.bitTicks * (s.cfg.ifg + slotOf s.cfg.slots o s.cfg.ownId * s.cfg.slotTime), some o⟩) ∨
    s.line.round = some ⟨s.cfg.bitTicks * s.cfg.ifg, none⟩) ∧
  (∀ (s : State) (b : List Byte), ReadSound s → .readEnd b ∈ s.expiries →
    b = (List.range 322).map (memoryByte s.ext.memory))

/-! ### Start and reset -/

/-- RESET leaves every block at its reset value, the outputs released, LTXE and MCS released, FAULT and SYNC
deasserted; what waits, the outside and the model's counter stay (log 20, log 8, log 2), but that no scope of a
CANCEL waits on (log 26) and that an own transmission ends with the carrier it put on the line (log 18).  While
it holds, bus time does not count.  RESET_RELEASE starts the memory read of 20,800 ticks at a held station and
changes nothing else (log 6); a station that is not held stays as it is (log 3). -/
def Obligations.ResetHoldsUntilItsRelease : Prop :=
  (∀ s : State, ∃ t, exec .reset s = .next t ∧
     t.loader.life = .loading ∧ t.loader.held = true ∧ t.loader.readLeft = none ∧ t.loader.joinLeft = none ∧
     t.loader.shift = [] ∧ t.loader.block = [] ∧
     t.timebase = ⟨0, .unsynced, none⟩ ∧
     t.line.episode = .quiet ∧ t.line.txList = [] ∧ t.line.attempts = 0 ∧ t.line.beaconTimer = none ∧
     t.line.announcedTimer = none ∧ t.line.lastSender = none ∧ t.line.mode = .openRound ∧
     t.line.round = none ∧
     (∀ x : StationId, t.peers[x] = ⟨.absent, 0, false, none⟩) ∧
     (∀ n : InputId, t.inputs[n] = ⟨none, none, 0, none, none, none⟩) ∧
     (∀ i : BindingId, t.bindings[i] = none) ∧ t.queue = [] ∧ (∀ c : ChannelId, t.staging[c] = none) ∧
     (∀ c : ChannelId, t.channels[c] = ⟨.idle, none, none, none, false, false⟩) ∧
     t.faults = ⟨0, 0, .noReason, none⟩ ∧
     (∀ c : ChannelId, t.tout c = none) ∧ t.ltxe = false ∧ t.mcs = false ∧ t.faultLine = false ∧
     t.syncLine = false ∧ t.pending = s.pending ∧ t.choice = s.choice ∧ t.scopeLeft = none ∧
     (∀ x, s.line.episode = .own x → t.ext = { s.ext with carrier := false }) ∧
     ((∀ x, s.line.episode ≠ .own x) → t.ext = s.ext)) ∧
  (∀ s : State,
     (s.loader.held = true → exec .resetRelease s =
       .next { s with loader := { s.loader with held := false, readLeft := some 20800, shift := [] } }) ∧
     (s.loader.held = false → exec .resetRelease s = .next s)) ∧
  (∀ s : State, s.loader.held = true → exec .dueDelivery s = .next s)

/-- At the end of the read the block is judged against the global checks: the station enters JOINING when every
one holds, and UNCONFIGURED when any fails.  No read begins but at the release of a reset or by a RESTART. -/
def Obligations.ReadEndJudgesTheGlobalChecks : Prop :=
  (∀ (b : List Byte) (s : State), b.length = 322 → s.loader.life = .loading → s.loader.readLeft = some 0 →
    ∃ t, exec (.readEnd b) s = .next t ∧ (t.loader.life = .joining ∨ t.loader.life = .unconfigured) ∧
      t.loader.readLeft = none ∧
      (t.loader.life = .joining ↔
        byteAt b 0 = 0xC5 ∧ byteAt b 1 = 0x3A ∧ byteAt b 2 = 1 ∧
        crc16 (b.take 320) = byteAt b 320 ++ byteAt b 321 ∧
        2 ≤ (byteAt b 4).toNat ∧ (byteAt b 4).toNat ≤ 32 ∧ (byteAt b 3).toNat < (byteAt b 4).toNat ∧
        (byteAt b 7).toNat ≤ 3 ∧ 8 ≤ (byteAt b 8).toNat ∧ 4 ≤ (byteAt b 9).toNat ∧
        1 ≤ (field16 b 12).toNat ∧ 1 ≤ (field16 b 14).toNat ∧ 1 ≤ (field16 b 18).toNat ∧
        1 ≤ (field16 b 23).toNat ∧ 2 ≤ (byteAt b 20).toNat ∧ (byteAt b 20).toNat ≤ 15 ∧
        (field16 b 18).toNat * (byteAt b 20).toNat ≤ (field16 b 21).toNat ∧
        (∀ n : Fin 4, ((byteAt b (27 + 2 * n)).extractLsb' 0 4).toNat ≤ 3 ∧
          1 ≤ (byteAt b (28 + 2 * n)).toNat ∧ (byteAt b (28 + 2 * n)).toNat ≤ 15) ∧
        (∀ n : Fin 8, 1 ≤ (byteAt b (36 + 2 * n)).toNat) ∧
        (∀ i, 51 ≤ i → i ≤ 63 → byteAt b i = 0))) ∧
  (∀ s t : State, step s = .next t → s.loader.readLeft = none → t.loader.readLeft ≠ none →
    (s.loader.held = true ∧ s.pending.head? = some .resetRelease) ∨
    ∃ f, s.pending.head? = some (.restart f))

/-- A block that fails leaves the station UNCONFIGURED, FAULT asserted, the outputs released, nothing else
changed.  A valid block starts JOINING: every block takes its values from the bytes that the layout gives it, the
join window starts, and the first round is anchored at once on a quiet line or at the frame end of the episode in
progress.  A READ_END at no end of a read changes nothing (log 3). -/
def Obligations.ReadEndOutcome : Prop :=
  (∀ (b : List Byte) (s : State),
     (s.loader.life = .loading → s.loader.readLeft = some 0 → blockValid b = false →
       ∃ t, exec (.readEnd b) s = .next t ∧
         t = { s with loader := { s.loader with
           life := .unconfigured, readLeft := none, shift := [], block := b } } ∧
         t.faultLine = true ∧ ∀ c : ChannelId, t.tout c = none) ∧
     (¬(s.loader.life = .loading ∧ s.loader.readLeft = some 0) → exec (.readEnd b) s = .next s)) ∧
  (∀ (b : List Byte) (s : State), s.loader.life = .loading → s.loader.readLeft = some 0 →
     blockValid b = true → ∃ t, exec (.readEnd b) s = .next t ∧
       t.loader = { s.loader with
         life := .joining, readLeft := none, shift := [], block := b, joinLeft := some ((field16 b 21).toNat * 1024) } ∧
       t.cfg.ownId.val = (byteAt b 3).toNat ∧ t.cfg.slots = (byteAt b 4).toNat ∧ t.cfg.groups = field16 b 5 ∧
       t.cfg.rate.val = (byteAt b 7).toNat ∧ t.cfg.ifg = (byteAt b 8).toNat ∧
       t.cfg.slotTime = (byteAt b 9).toNat ∧ t.cfg.lineDelay = (byteAt b 10).toNat ∧
       t.cfg.slack = (byteAt b 11).toNat ∧ t.cfg.stepLimit = (field16 b 12).toNat * 1024 ∧
       t.cfg.confirmWindow = (field16 b 14).toNat * 1024 ∧ t.cfg.lateWindow = (field16 b 16).toNat ∧
       t.cfg.beaconInterval = (field16 b 18).toNat * 1024 ∧ t.cfg.silenceFactor = (byteAt b 20).toNat ∧
       t.cfg.stagingLifetime = (field16 b 23).toNat * 1024 ∧
       (∀ n : InputId, t.cfg.inputs[n].select =
           (match (byteAt b (27 + 2 * n)).extractLsb' 4 2 with | 0 => .off | 1 => .rise | 2 => .fall | 3 => .both) ∧
         t.cfg.inputs[n].period = 4 ^ ((byteAt b (27 + 2 * n)).extractLsb' 0 4).toNat ∧
         t.cfg.inputs[n].count = (byteAt b (28 + 2 * n)).toNat) ∧
       (∀ n : ChannelId, t.cfg.channels[n] = ⟨(byteAt b (35 + 2 * n)).getLsbD 0,
         (byteAt b (35 + 2 * n)).getLsbD 1, (byteAt b (36 + 2 * n)).toNat⟩) ∧
       (∀ i : BindingId, t.bindings[i] = loadBinding t.cfg.channels ((b.drop (64 + 16 * i)).take 16)) ∧
       t.faults.mask = (field16 b 25).setWidth 13 ∧
       (t.flag .bindingRejected = true ↔ s.flag .bindingRejected = true ∨
         ∃ i : BindingId, (byteAt b (64 + 16 * i)).getLsbD 7 = true ∧ t.bindings[i] = none) ∧
       (∀ x, x ≠ .bindingRejected → t.flag x = s.flag x) ∧
       t.faults.reason = s.faults.reason ∧ t.faults.latch = s.faults.latch ∧
       (s.ext.carrier = false → t.line = { s.line with episode := .quiet, round := some ⟨0, none⟩ }) ∧
       (s.ext.carrier = true → t.line = { s.line with episode := .unjudged, round := none }) ∧
       t.ext = s.ext ∧ t.timebase = s.timebase ∧ t.peers = s.peers ∧ t.inputs = s.inputs ∧ t.queue = s.queue ∧
       t.staging = s.staging ∧ t.channels = s.channels ∧ t.scopeLeft = s.scopeLeft)

/-- A raw program is valid exactly as the requirements of its kind say.  A binding entry is enabled at load
exactly when its enable bit is set and no condition of the load check disables it, with the fields that the
16-byte layout gives and its parity computed over them. -/
def Obligations.BindingsAndProgramsAtLoad : Prop :=
  (∀ (r : RawProgram) (p : Program), r.judge = some p ↔
     p.width = r.width ∧ p.period = r.period ∧ p.count = r.count ∧
     ((r.kindCode = 1 ∧ p.kind = .pulse ∧ 1 ≤ r.width.toNat) ∨
       (r.kindCode = 2 ∧ p.kind = .retrig ∧ 1 ≤ r.width.toNat) ∨
       (r.kindCode = 3 ∧ p.kind = .train ∧ 1 ≤ r.width.toNat ∧ r.width.toNat ≤ 16777214 ∧
         r.width.toNat + 1 ≤ r.period.toNat) ∨
       (r.kindCode = 4 ∧ p.kind = .square ∧ 2 ≤ r.period.toNat) ∨
       (r.kindCode = 5 ∧ p.kind = .levelOn) ∨ (r.kindCode = 6 ∧ p.kind = .levelOff))) ∧
  (∀ (channels : Vector ChannelConfig 8) (e : List Byte) (b : Binding),
     loadBinding channels e = some b ↔
       (byteAt e 0).getLsbD 7 = true ∧ b.parity = b.content ∧
       ((b.content.edge = .rise ∧ (byteAt e 0).extractLsb' 3 2 = 1) ∨
         (b.content.edge = .fall ∧ (byteAt e 0).extractLsb' 3 2 = 2) ∨
         (b.content.edge = .both ∧ (byteAt e 0).extractLsb' 3 2 = 3)) ∧
       ((∃ x : StationId, b.content.source = .station x ∧ (byteAt e 1).toNat = x.val) ∨
         (b.content.source = .any ∧ (byteAt e 1).toNat = 255)) ∧
       b.content.input.val = ((byteAt e 0).extractLsb' 5 2).toNat ∧
       ((byteAt e 2).extractLsb' 4 4).toNat ≤ 4 ∧
       b.content.divider = 2 ^ ((byteAt e 2).extractLsb' 4 4).toNat ∧
       b.content.phase = ((byteAt e 2).extractLsb' 0 4).toNat ∧ b.content.phase < b.content.divider ∧
       (byteAt e 3).toNat = b.content.channel.val ∧ channels[b.content.channel].enabled = true ∧
       b.content.delay = field24 e 4 ∧ (rawProgramAt e 7).judge = some b.content.program)

/-- The end of the join window enters RUNNING: the timebase is SYNCED, SYNC is asserted, each input takes its
first sample, and a station that is not mute starts its beacon timer with a BEACON request.  Before the end of
the window nothing changes (log 3). -/
def Obligations.JoinWindowEndEntersRunning : Prop :=
  ∀ (levels : BitVec 4) (s : State),
    (s.loader.life = .joining → s.loader.joinLeft = some 0 →
      ∃ t, exec (.joinWindowEnd levels) s = .next t ∧
        t.loader = { s.loader with life := .running, joinLeft := none } ∧
        t.timebase = { s.timebase with sync := .synced } ∧ t.syncLine = true ∧
        (∀ n : InputId, t.inputs[n] = { s.inputs[n] with
          stable := some (levels.getLsbD n.val), run := none,
          sampleTimer := some s.cfg.inputs[n].period }) ∧
        (∀ n : InputId, t.ext.tin[n] = levels.getLsbD n.val) ∧
        t.ext.carrier = s.ext.carrier ∧ t.ext.memory = s.ext.memory ∧
        (s.mute = true → t.line = s.line) ∧
        (s.mute = false → t.line = { s.line with
          beaconTimer := some s.cfg.beaconInterval,
          txList := if .beacon ∈ s.line.txList then s.line.txList else s.line.txList ++ [.beacon] }) ∧
        t.cfg = s.cfg ∧ t.peers = s.peers ∧ t.bindings = s.bindings ∧ t.queue = s.queue ∧
        t.staging = s.staging ∧ t.channels = s.channels ∧ t.faults = s.faults ∧
        t.scopeLeft = s.scopeLeft) ∧
    (¬(s.loader.life = .joining ∧ s.loader.joinLeft = some 0) → exec (.joinWindowEnd levels) s = .next s)

/-! ### Carrier, rounds and slots -/

/-- CARRIER_START on a quiet line of an active station ends the round and gives the search for the delimiter 32
bit times; otherwise only the carrier is noted, at a station whose receiver is inactive too (the model's choice,
log 18).  DELIMITER_FOUND captures bus time while the search runs, at the end of the 32 bit times too (the model's
choice, log 22), and DELIMITER_SEARCH_ENDED makes the episode a fragment when the 32 bit times have passed;
otherwise they change nothing (log 3). -/
def Obligations.CarrierBeginsTheSearch : Prop :=
  (∀ s : State,
     (s.active = true → s.line.episode = .quiet → exec .carrierStart s =
       .next { s with
         ext := { s.ext with carrier := true },
         line := { s.line with episode := .searching (32 * s.cfg.bitTicks), round := none } }) ∧
     ((s.active = false ∨ s.line.episode ≠ .quiet) → exec .carrierStart s =
       .next { s with ext := { s.ext with carrier := true } })) ∧
  (∀ s : State,
     (∀ n, s.line.episode = .searching n →
       exec .delimiterFound s =
         .next { s with line := { s.line with episode := .captured s.timebase.busTime } }) ∧
     ((∀ n, s.line.episode ≠ .searching n) → exec .delimiterFound s = .next s) ∧
     (s.line.episode = .searching 0 →
       exec .delimiterSearchEnded s = .next { s with line := { s.line with episode := .fragment } }) ∧
     (s.line.episode ≠ .searching 0 → exec .delimiterSearchEnded s = .next s))

/-- At the end of the IFG the order of the round is fixed: a NORMAL round refers to the last sender and takes the
compact list of this instant, an OPEN round refers to SLOTS less one.  A round with no carrier ends after its last
slot, and the next begins at once: NORMAL when the last sender is known, OPEN when it is not (log 13).  At any
other instant nothing changes (log 3).  Slot k begins the IFG and k slot times after the anchor, in bit times of
20, 10, 4 or 2 ticks by the rate code. -/
def Obligations.RoundsAreOrderedAndFollowed : Prop :=
  (∀ s : State,
     (∀ e, s.line.round = some ⟨e, none⟩ → e = s.cfg.bitTicks * s.cfg.ifg →
       (∀ r, s.line.mode = .normal → s.line.lastSender = some r → exec .ifgEnd s =
         .next { s with line := { s.line with
           round := some ⟨e, some ⟨.normal, r.val, s.compactList r.val⟩⟩ } }) ∧
       (s.line.mode = .openRound → exec .ifgEnd s =
         .next { s with line := { s.line with
           round := some ⟨e, some ⟨.openRound, s.cfg.slots - 1, []⟩⟩ } })) ∧
     ((∀ e, s.line.round = some ⟨e, none⟩ → e ≠ s.cfg.bitTicks * s.cfg.ifg) → exec .ifgEnd s = .next s)) ∧
  (∀ s : State,
     (∀ e o, s.line.round = some ⟨e, some o⟩ → e = s.cfg.slotStart (slotCount s.cfg.slots o) →
       (∀ x, s.line.lastSender = some x → exec .roundEnd s =
         .next { s with line := { s.line with mode := .normal, round := some ⟨0, none⟩ } }) ∧
       (s.line.lastSender = none → s.line.mode = .openRound → exec .roundEnd s =
         .next { s with line := { s.line with round := some ⟨0, none⟩ } })) ∧
     ((∀ e o, s.line.round = some ⟨e, some o⟩ → e ≠ s.cfg.slotStart (slotCount s.cfg.slots o)) →
       exec .roundEnd s = .next s)) ∧
  (∀ (p : Params) (k : Nat), p.slotStart k = p.bitTicks * (p.ifg + k * p.slotTime) ∧
    (p.rate = 0 → p.bitTicks = 20) ∧ (p.rate = 1 → p.bitTicks = 10) ∧ (p.rate = 2 → p.bitTicks = 4) ∧
    (p.rate = 3 → p.bitTicks = 2))

/-- The compact list of a NORMAL round holds exactly the PRESENT peers and, while the announced flag is set, the
station itself, ordered by position, and at most SLOTS identifiers.  Its i-th identifier has slot i, any other
identifier the slot of the open region at its position, no two identifiers of the ring share a slot, and the
round has |C| + SLOTS slots. -/
def Obligations.NormalRoundSlots : Prop :=
  (∀ (s : State) (r : StationId), PeersSound s → s.active = true → r.val < s.cfg.slots →
     (∀ x : StationId, x ∈ s.compactList r.val ↔
       s.peers[x].isPresent = true ∨ (x = s.cfg.ownId ∧ s.announced = true)) ∧
     ((s.compactList r.val).map (position s.cfg.slots r.val)).Pairwise (· < ·) ∧
     (s.compactList r.val).length ≤ s.cfg.slots) ∧
  (∀ (slots r : Nat) (cl : List StationId), slots ≤ 32 → r < slots → cl.Nodup →
     (∀ x ∈ cl, x.val < slots) →
     slotCount slots ⟨.normal, r, cl⟩ = cl.length + slots ∧
     (∀ (i : Nat) (x : StationId), cl[i]? = some x → slotOf slots ⟨.normal, r, cl⟩ x = i) ∧
     (∀ x, x ∉ cl → slotOf slots ⟨.normal, r, cl⟩ x = cl.length + position slots r x) ∧
     (∀ x : StationId, x.val < slots → position slots r x < slots ∧
       (r + 1 + position slots r x) % slots = x.val) ∧
     (∀ x y : StationId, x.val < slots → y.val < slots →
       slotOf slots ⟨.normal, r, cl⟩ x = slotOf slots ⟨.normal, r, cl⟩ y → x = y))

/-- In an OPEN round the order fixed is that of the reference SLOTS less one whatever the compact list and the
announced flag, the station with identifier x uses slot x, and the round has SLOTS slots and lasts IFG + SLOTS
slot times. -/
def Obligations.OpenRoundSlots : Prop :=
  ∀ s : State, s.line.mode = .openRound → 1 ≤ s.cfg.slots → s.cfg.slots ≤ 32 →
    s.roundOrder.mode = .openRound ∧ s.roundOrder.reference = s.cfg.slots - 1 ∧
    (∀ x : StationId, x.val < s.cfg.slots →
      position s.cfg.slots (s.cfg.slots - 1) x = x.val ∧ slotOf s.cfg.slots s.roundOrder x = x.val) ∧
    slotCount s.cfg.slots s.roundOrder = s.cfg.slots ∧
    s.cfg.slotStart (slotCount s.cfg.slots s.roundOrder) =
      s.cfg.bitTicks * (s.cfg.ifg + s.cfg.slots * s.cfg.slotTime) ∧
    (∀ (peers : Vector Peer 32) (timer : Option Nat),
      ({ s with peers := peers, line := { s.line with announcedTimer := timer } } : State).roundOrder =
        s.roundOrder)

/-! ### The station's own transmission -/

/-- At its slot, when the round stands at the start of its own slot with the order fixed, a RUNNING station that
is not mute sends the frame of its head request, built at this instant with the stamp 24 bit times ahead: a
BEACON with its life state, flags and queue count, an EDGE with the capture in the slot, which is then in flight,
a REPORT with the snapshot to its prober.  In the state it leaves, LTXE is driven, LTX carries the frame's bits,
and the ticks left to the frame end are those of the bits and two bit times more (the model's choice, log 23).  A
station that is not RUNNING, is mute or has no request does nothing, nor does one that is not at the start of its
own slot (log 3). -/
def Obligations.TransmitStartSendsTheHead : Prop :=
  (∀ (s : State) (rest : List Request) (o : RoundOrder), s.loader.life = .running → s.mute = false →
     s.line.round = some
       ⟨s.cfg.bitTicks * (s.cfg.ifg + slotOf s.cfg.slots o s.cfg.ownId * s.cfg.slotTime), some o⟩ →
     let stamp := s.timebase.busTime + BitVec.ofNat 40 (24 * s.cfg.bitTicks)
     let sends := fun (bytes : List Byte) (inputs : Vector Input 4) => ∃ t,
       exec .transmitStart s = .next t ∧
       t = { s with
         ext := { s.ext with carrier := true },
         line := { s.line with
           episode := .own ⟨bytes, true, s.cfg.bitTicks * (24 + 8 * bytes.length + 2)⟩, round := none },
         inputs := inputs } ∧
       t.ltxe = true ∧ t.ltxBits = some (lineBits bytes)
     (s.line.txList = .beacon :: rest →
       sends (frameBytes 1 ⟨s.cfg.ownId, .all, 0, stamp,
         [3] ++ bytes16 (s.faults.flags.setWidth 16) ++ [BitVec.ofNat 8 s.queue.length]⟩) s.inputs) ∧
     (∀ (n : InputId) (g : CaptureSlot), s.line.txList = .edge n :: rest → s.inputs[n].slot = some g →
       sends (frameBytes 2 ⟨s.cfg.ownId, .all, 0, stamp,
         [BitVec.ofNat 8 (64 * n.val + (if g.capture.rising then 32 else 0) +
           (if g.capture.overrun then 16 else 0)), g.capture.count] ++ bytes40 g.capture.time⟩)
         (s.inputs.set n { s.inputs[n] with slot := some { g with inFlight := true } })) ∧
     (∀ m : Snapshot, s.line.txList = .report :: rest → s.faults.latch = some m →
       sends (frameBytes 8 ⟨s.cfg.ownId, .station, BitVec.ofNat 16 m.prober.val, stamp,
         [m.probeId, match m.selector with
           | .status => 1 | .peers => 2 | .leadsLo => 3 | .leadsHi => 4 | .queue => 5] ++ m.body⟩)
         s.inputs)) ∧
  (∀ s : State,
     (s.loader.life ≠ .running ∨ s.mute = true ∨ s.line.txList = [] ∨ s.line.round = none ∨
       ∃ e o, s.line.round = some ⟨e, o⟩ ∧ ∀ w, o = some w →
         e ≠ s.cfg.bitTicks * (s.cfg.ifg + slotOf s.cfg.slots w s.cfg.ownId * s.cfg.slotTime)) →
     exec .transmitStart s = .next s)

/-- At a read-back mismatch the station stops driving and remains transmitting, also after its last bit (the model's
choice, log 25); without a transmission of its own nothing changes (log 3). -/
def Obligations.MismatchStopsDriving : Prop :=
  ∀ s : State,
    (∀ x, s.line.episode = .own x → ∃ t, exec .readbackMismatch s = .next t ∧
      t = { s with line := { s.line with episode := .own { x with driving := false } } } ∧
      t.ltxe = false ∧ t.ltxBits = none) ∧
    ((∀ x, s.line.episode ≠ .own x) → exec .readbackMismatch s = .next s)

/-- The completion of an own frame: the head request leaves with its attempts, its owner moves on, a waiting
BEACON request is withdrawn by another frame, the beacon timer and the announced flag start afresh, the station
is the last sender, and the round anchored here is NORMAL.  After a mismatch, before the frame end, and without a
transmission of its own, nothing changes (log 3). -/
def Obligations.OwnFrameCompletes : Prop :=
  (∀ (s : State) (x : Transmission) (rest : List Request),
     s.line.episode = .own x → x.driving = true → x.left = 0 →
     let line := fun txList => ({ s.line with
       episode := .quiet, round := some ⟨0, none⟩, txList := txList, attempts := 0,
       beaconTimer := some s.cfg.beaconInterval,
       announcedTimer := some (s.cfg.beaconInterval * s.cfg.silenceFactor),
       lastSender := some s.cfg.ownId, mode := .normal } : Line)
     let ext := { s.ext with carrier := false }
     let others := rest.filter fun r => decide (r ≠ .beacon)
     (s.line.txList = .beacon :: rest →
       exec .ownComplete s = .next { s with ext := ext, line := line rest }) ∧
     (s.line.txList = .report :: rest →
       exec .ownComplete s =
         .next { s with ext := ext, line := line others, faults := { s.faults with latch := none } }) ∧
     (∀ n : InputId, s.line.txList = .edge n :: rest → s.inputs[n].followOn = none →
       exec .ownComplete s = .next { s with
         ext := ext, line := line others, inputs := s.inputs.set n { s.inputs[n] with slot := none } }) ∧
     (∀ (n : InputId) (k : Capture), s.line.txList = .edge n :: rest → .edge n ∉ rest →
       s.inputs[n].followOn = some k → s.loader.life = .running → s.mute = false →
       exec .ownComplete s = .next { s with
         ext := ext, line := line (others ++ [.edge n]),
         inputs := s.inputs.set n { s.inputs[n] with slot := some ⟨k, false⟩, followOn := none } })) ∧
  (∀ s : State, (∀ x, s.line.episode = .own x → x.driving = false ∨ x.left ≠ 0) →
     exec .ownComplete s = .next s)

/-- An aborted attempt below the eighth raises the attempt count and keeps the head request, a follow-on taking
its slot with its overrun set and CAPTURE_OVERRUN.  The eighth drops the head request with TX_DROPPED: the latch
of a REPORT empties, the slot of an EDGE empties or takes the follow-on with its overrun set and a fresh request.
The next round is OPEN; the last sender and the timers stay.  While the station drives, and without a transmission
of its own, nothing changes (log 3). -/
def Obligations.OwnAbortRetriesOrDrops : Prop :=
  (∀ (s : State) (x : Transmission) (r : Request) (rest : List Request),
     s.line.episode = .own x → x.driving = false → s.line.txList = r :: rest → s.line.attempts < 7 →
     let line : Line := { s.line with
       episode := .quiet, round := some ⟨0, none⟩, attempts := s.line.attempts + 1, mode := .openRound }
     let ext := { s.ext with carrier := false }
     ((r = .beacon ∨ r = .report ∨ ∃ n : InputId, r = .edge n ∧ s.inputs[n].followOn = none) →
       exec .ownAborted s = .next { s with ext := ext, line := line }) ∧
     (∀ (n : InputId) (k : Capture), r = .edge n → s.inputs[n].followOn = some k →
       exec .ownAborted s = .next { s with
         ext := ext, line := line,
         inputs := s.inputs.set n
           { s.inputs[n] with slot := some ⟨{ k with overrun := true }, false⟩, followOn := none },
         faults := { s.faults with flags := s.faults.flags ||| flagBit .captureOverrun } })) ∧
  (∀ (s : State) (x : Transmission) (rest : List Request),
     s.line.episode = .own x → x.driving = false → 7 ≤ s.line.attempts →
     let line := fun txList => ({ s.line with
       episode := .quiet, round := some ⟨0, none⟩, txList := txList, attempts := 0, mode := .openRound } : Line)
     let ext := { s.ext with carrier := false }
     let dropped := s.faults.flags ||| flagBit .txDropped
     (s.line.txList = .beacon :: rest →
       exec .ownAborted s =
         .next { s with ext := ext, line := line rest, faults := { s.faults with flags := dropped } }) ∧
     (s.line.txList = .report :: rest →
       exec .ownAborted s = .next { s with
         ext := ext, line := line rest, faults := { s.faults with flags := dropped, latch := none } }) ∧
     (∀ n : InputId, s.line.txList = .edge n :: rest → s.inputs[n].followOn = none →
       exec .ownAborted s = .next { s with
         ext := ext, line := line rest, faults := { s.faults with flags := dropped },
         inputs := s.inputs.set n { s.inputs[n] with slot := none } }) ∧
     (∀ (n : InputId) (k : Capture), s.line.txList = .edge n :: rest → .edge n ∉ rest →
       s.inputs[n].followOn = some k → s.loader.life = .running → s.mute = false →
       exec .ownAborted s = .next { s with
         ext := ext, line := line (rest ++ [.edge n]),
         faults := { s.faults with flags := dropped ||| flagBit .captureOverrun },
         inputs := s.inputs.set n
           { s.inputs[n] with slot := some ⟨{ k with overrun := true }, false⟩, followOn := none } })) ∧
  (∀ s : State, (∀ x, s.line.episode = .own x → x.driving = true) → exec .ownAborted s = .next s)

/-! ### Episodes that bring no frame from a peer -/

/-- A bad episode sets LINE_ERROR, anchors a round and makes it OPEN; so does every frame end of an episode
whose delimiter was not found. -/
def Obligations.BadEpisodeOpensTheRound : Prop :=
  ∀ (s : State) (c : Instr), s.active = true →
    let bad : State := { s with
      ext := { s.ext with carrier := false },
      line := { s.line with episode := .quiet, round := some ⟨0, none⟩, mode := .openRound },
      faults := { s.faults with flags := s.faults.flags ||| flagBit .lineError } }
    ((∃ a, s.line.episode = .captured a) → exec .badEpisode s = .next bad) ∧
    (((∃ n, s.line.episode = .searching n) ∨ s.line.episode = .fragment) →
      c = .badEpisode ∨ c = .foreignFrame ∨ c = .clash ∨ (frameOf c).isSome = true →
      exec c s = .next bad)

/-- A good frame whose sender is not less than SLOTS only anchors the next round: FOREIGN_FRAME and every frame
row with such a sender change nothing but the carrier, the episode and the round. -/
def Obligations.ForeignFramesOnlyAnchor : Prop :=
  ∀ (s : State) (a : BusTime) (c : Instr), s.active = true → s.line.episode = .captured a →
    (c = .foreignFrame ∨ ∃ k f, frameOf c = some (k, f) ∧ s.cfg.slots ≤ f.sender.val) →
    exec c s = .next { s with
      ext := { s.ext with carrier := false },
      line := { s.line with episode := .quiet, round := some ⟨0, none⟩ } }

/-- A clash makes the station the last sender and the round NORMAL, and enters mute unless mute already: ID_CLASH
is set, the transmit list and the latch empty, the beacon timer stops and the announced flag clears.  Every frame
row with the station's own identifier is a clash. -/
def Obligations.ClashEntersMute : Prop :=
  ∀ (s : State) (a : BusTime) (c : Instr), s.active = true → s.line.episode = .captured a →
    (c = .clash ∨ ∃ k f, frameOf c = some (k, f) ∧ f.sender = s.cfg.ownId ∧ f.sender.val < s.cfg.slots) →
    let ext := { s.ext with carrier := false }
    let line : Line := { s.line with
      episode := .quiet, round := some ⟨0, none⟩, lastSender := some s.cfg.ownId, mode := .normal }
    (s.mute = false → ∃ t, exec c s = .next t ∧ t = { s with
      ext := ext,
      line := { line with txList := [], attempts := 0, beaconTimer := none, announcedTimer := none },
      faults := { s.faults with flags := s.faults.flags ||| flagBit .idClash, latch := none } } ∧
      t.mute = true) ∧
    (s.mute = true → exec c s = .next { s with ext := ext, line := line })

/-- An episode in progress at entry to JOINING ends with a round anchor and no judgment, whichever frame-end
command reports it, the round mode as it stands (the model's reading, log 21).  A station that transmits receives no
frame and detects no clash: a frame-end command of the line leaves its state as it is, and so it does on a quiet
line (log 3).  While the receiver is inactive such a command changes nothing but the carrier. -/
def Obligations.UnreceivedEpisodesAreNotJudged : Prop :=
  (∀ (s : State) (c : Instr), s.active = true → s.line.episode = .unjudged →
     c = .unjudgedFrameEnd ∨ c = .badEpisode ∨ c = .foreignFrame ∨ c = .clash ∨ (frameOf c).isSome = true →
     exec c s = .next { s with
       ext := { s.ext with carrier := false },
       line := { s.line with episode := .quiet, round := some ⟨0, none⟩ } }) ∧
  (∀ (s : State) (c : Instr), s.active = true → ((∃ x, s.line.episode = .own x) ∨ s.line.episode = .quiet) →
     c = .unjudgedFrameEnd ∨ c = .badEpisode ∨ c = .foreignFrame ∨ c = .clash ∨ (frameOf c).isSome = true →
     exec c s = .next s) ∧
  (∀ (s : State) (c : Instr), s.active = false →
     c = .unjudgedFrameEnd ∨ c = .badEpisode ∨ c = .foreignFrame ∨ c = .clash ∨ (frameOf c).isSome = true →
     exec c s = .next { s with ext := { s.ext with carrier := false } })

/-! ### The arrival of a good frame from a peer -/

/-- Every row that carries a good frame has stages 1 to 3 of its arrival, and no further effect when the station
is not RUNNING or the frame does not match; a REPORT from another station and a frame of an unknown kind never
have one, whatever their payload. -/
def Obligations.UnhandedFramesServeTheStages : Prop :=
  (∀ (c : Instr) (k : BitVec 4) (f : Frame) (a : BusTime) (s : State), frameOf c = some (k, f) →
     Arrives f a s → (s.loader.life ≠ .running ∨ s.matchesDest f = false) →
     exec c s = .next (s.arrived f a)) ∧
  (∀ (k : BitVec 4) (f : Frame) (a : BusTime) (s : State), Arrives f a s →
     exec (.report f) s = .next (s.arrived f a) ∧ exec (.unknownKind k f) s = .next (s.arrived f a))

/-- Stages 1 to 3 of an arrival: the frame end anchors a round, the timebase acts on the lead, the sender's entry
is PRESENT with a fresh silence timer and the saturated lead, and the sender is the last sender of a NORMAL
round; nothing else changes. -/
def Obligations.ArrivalStages : Prop :=
  ∀ (f : Frame) (a : BusTime) (s : State),
    let lead := signedDiff (f.stamp + BitVec.ofNat 40 s.cfg.lineDelay) a
    s.arrived f a = { s with
      ext := { s.ext with carrier := false },
      line := { s.line with
        episode := .quiet, round := some ⟨0, none⟩, lastSender := some f.sender, mode := .normal },
      peers := s.peers.set f.sender { s.peers[f.sender] with
        presence := .present (s.cfg.beaconInterval * s.cfg.silenceFactor),
        lead := BitVec.ofInt 16 (max (-32768) (min 32767 lead)) },
      timebase := (s.takeLead lead).timebase, queue := (s.takeLead lead).queue,
      channels := (s.takeLead lead).channels, faults := (s.takeLead lead).faults }

/-- A lead that is zero or negative in UNSYNCED, or within the slack in SYNCED, changes nothing.  A far lead in
SYNCED with no candidate creates one; with one that agrees within the step limit it jumps bus time by the newer
lead, flushes the queue and sets TIME_JUMP; with one that disagrees it replaces the candidate and sets
TIME_CONFLICT.  Nothing else changes. -/
def Obligations.SmallAndFarLeads : Prop :=
  (∀ (lead : Int) (s : State),
     ((s.timebase.sync = .unsynced ∧ lead ≤ 0) ∨ (s.timebase.sync = .synced ∧ lead ≤ s.cfg.slack)) →
     s.takeLead lead = s) ∧
  (∀ (lead : Int) (s : State), s.timebase.sync = .synced → s.cfg.slack < lead → s.cfg.stepLimit < lead →
     (s.timebase.candidate = none → s.takeLead lead =
       { s with timebase := { s.timebase with candidate := some ⟨lead, s.cfg.confirmWindow⟩ } }) ∧
     (∀ c, s.timebase.candidate = some c →
       (|lead - c.lead| ≤ s.cfg.stepLimit → s.takeLead lead =
         { s with
           timebase := { s.timebase with
             busTime := s.timebase.busTime + BitVec.ofInt 40 lead, candidate := none },
           queue := [],
           faults := { s.faults with flags := s.faults.flags ||| flagBit .timeJump } }) ∧
       (s.cfg.stepLimit < |lead - c.lead| → s.takeLead lead =
         { s with
           timebase := { s.timebase with candidate := some ⟨lead, s.cfg.confirmWindow⟩ },
           faults := { s.faults with flags := s.faults.flags ||| flagBit .timeConflict } })))

/-- A step, in UNSYNCED by any positive lead and in SYNCED by an ordinary one, moves bus time forward by the lead
and takes the entries it reaches out of the queue, in queue order: an entry whose check holds is handed to its
channel, with the late marker when the step has passed it (not when it is reached exactly, log 27), and any other is
discarded with STORE_PARITY; a passed entry sets LATE_FIRE.  An ordinary step reduces the candidate or drops it
without a flag. -/
def Obligations.StepsMoveTimeAndDeliver : Prop :=
  ∀ (lead : Int) (s : State),
    ((s.timebase.sync = .unsynced ∧ 0 < lead) ∨
      (s.timebase.sync = .synced ∧ s.cfg.slack < lead ∧ lead ≤ s.cfg.stepLimit)) →
    let after := s.timebase.busTime + BitVec.ofInt 40 lead
    let reached := s.queue.filter fun e =>
      decide (0 < signedDiff e.fireTime s.timebase.busTime) && decide (signedDiff e.fireTime after ≤ 0)
    let moved : State := { s with
      timebase := { s.timebase with
        busTime := after,
        candidate := if s.timebase.sync = .unsynced then s.timebase.candidate else
          s.timebase.candidate.bind fun c =>
            if s.cfg.stepLimit < c.lead - lead then some { c with lead := c.lead - lead } else none },
      queue := s.queue.filter fun e =>
        !(decide (0 < signedDiff e.fireTime s.timebase.busTime) && decide (signedDiff e.fireTime after ≤ 0)) }
    let delivered := reached.foldl
      (fun t e =>
        if e.checkHolds then
          { t with
            channels := t.channels.set e.content.channel
              (t.channels[e.content.channel].takeFiring s.cfg.channels[e.content.channel].gap
                e.content.program (decide (signedDiff e.fireTime after < 0))) }
        else { t with faults := { t.faults with flags := t.faults.flags ||| flagBit .storeParity } }) moved
    s.takeLead lead =
      if reached.any fun e => decide (signedDiff e.fireTime after < 0) then
        { delivered with faults := { delivered.faults with
            flags := delivered.faults.flags ||| flagBit .lateFire } }
      else delivered

/-- The destination filter: STATION matches the station's own identifier, GROUPS a shared group, ALL always; a
frame that does not match is dropped after stage 3, with no reason and no flag of its own. -/
def Obligations.DestinationFilter : Prop :=
  ∀ (f : Frame) (s : State),
    (f.destMode = .station →
      (s.matchesDest f = true ↔ f.dest.toNat = s.cfg.ownId.val) ∧
      (32 ≤ f.dest.toNat → s.matchesDest f = false)) ∧
    (f.destMode = .groups →
      (s.matchesDest f = true ↔ ∃ n, n < 16 ∧ f.dest.getLsbD n = true ∧ s.cfg.groups.getLsbD n = true) ∧
      (f.dest = 0 → s.matchesDest f = false)) ∧
    (f.destMode = .all → s.matchesDest f = true) ∧
    (∀ (c : Instr) (k : BitVec 4) (a : BusTime), frameOf c = some (k, f) → Arrives f a s →
      s.matchesDest f = false → ∃ t, exec c s = .next t ∧ t = s.arrived f a ∧
        t.faults.reason = s.faults.reason ∧
        t.faults.flags = (s.frameEnd.takeLead (s.frameLead f a)).faults.flags)

/-! ### Payloads that are handed on -/

/-- A BEACON of 4 bytes records the summary of its sender, whose queue occupancy is not kept; one of another
length records nothing. -/
def Obligations.BeaconRecordsTheSummary : Prop :=
  ∀ (f : Frame) (a : BusTime) (s : State), HandedOn f a s →
    (f.payload.length = 4 → exec (.beacon f) s = .next { s.arrived f a with
      peers := (s.arrived f a).peers.set f.sender { (s.arrived f a).peers[f.sender] with
        summary := some ⟨byteAt f.payload 0, byteAt f.payload 1 ++ byteAt f.payload 2⟩ } }) ∧
    (f.payload.length ≠ 4 → exec (.beacon f) s = .next (s.arrived f a))

/-- An EDGE of 7 bytes is judged against the sixteen binding entries in ascending order, with the input,
direction, edge count and captured time of its payload and the frame's sender; one of another length is not.  A
disabled entry does nothing; one whose parity fails sets STORE_PARITY; one that matches by source, input,
direction and divider phase offers the queue one firing at the captured time plus its delay; any other does
nothing.  The parity of an undisturbed entry holds. -/
def Obligations.EdgeIsJudgedByTheBindings : Prop :=
  (∀ (f : Frame) (a : BusTime) (s : State), HandedOn f a s →
     (f.payload.length = 7 → exec (.edge f) s = .next ((List.finRange 16).foldl
       (State.judgeEntry f.sender ⟨((byteAt f.payload 0).extractLsb' 6 2).toFin,
         (byteAt f.payload 0).getLsbD 5, byteAt f.payload 1, field40 f.payload 2⟩) (s.arrived f a))) ∧
     (f.payload.length ≠ 7 → exec (.edge f) s = .next (s.arrived f a))) ∧
  (∀ (x : StationId) (r : EdgeReport) (s : State) (i : BindingId),
     (s.bindings[i] = none → s.judgeEntry x r i = s) ∧
     (∀ b, s.bindings[i] = some b → b.parityHolds = false → s.judgeEntry x r i =
       { s with faults := { s.faults with flags := s.faults.flags ||| flagBit .storeParity } }) ∧
     (∀ b, s.bindings[i] = some b → b.parityHolds = true →
       let fits := (b.content.source = .any ∨ b.content.source = .station x) ∧ b.content.input = r.input ∧
         ((b.content.edge = .rise ∧ r.rising = true) ∨ (b.content.edge = .fall ∧ r.rising = false) ∨
           b.content.edge = .both) ∧
         r.count.toNat % b.content.divider = b.content.phase
       (fits → s.judgeEntry x r i = s.offer [⟨r.time + b.content.delay.setWidth 40,
         ⟨b.content.channel, b.content.program, .binding i, 0⟩⟩]) ∧
       (¬fits → s.judgeEntry x r i = s))) ∧
  (∀ b : Binding, b.parity = b.content → b.parityHolds = true)

/-- The queue's decision on an offer: the first firing in its order that is too far or stale refuses it whole
with that reason, too few free entries after the replacements refuse it with QUEUE_FULL, and otherwise the
replaced entries leave, the future firings are inserted, the others are delivered at once, late or on time, and
LATE_FIRE marks a late one. -/
def Obligations.OfferIsDecidedWhole : Prop :=
  ∀ (fs : List Firing) (s : State),
    let d := fun (x : Firing) => signedDiff x.fireTime s.timebase.busTime
    let late : Int := s.cfg.lateWindow
    let passes := fun (x : Firing) => -late ≤ d x ∧ d x ≤ 2 ^ 31
    let kept := s.queue.filter fun e => !replacedBy fs e
    let future := fs.filter fun x => decide (0 < d x)
    let done := (fs.filter fun x => decide (d x ≤ 0)).foldl
      (fun t x => t.deliver x.content.channel x.content.program (decide (d x < 0)))
      { s with queue := insertAll future kept }
    (∀ before x after, fs = before ++ x :: after → (∀ y ∈ before, passes y) →
      (2 ^ 31 < d x → s.offer fs = s.rejected .tooFar .cueRejected) ∧
      (d x < -late → s.offer fs = s.rejected .stale .staleCue)) ∧
    ((∀ x ∈ fs, passes x) → 32 < future.length + kept.length →
      s.offer fs = s.rejected .queueFull .queueFull) ∧
    ((∀ x ∈ fs, passes x) → future.length + kept.length ≤ 32 →
      (fs.any (fun x => decide (d x < 0)) = false → s.offer fs = done) ∧
      (fs.any (fun x => decide (d x < 0)) = true → s.offer fs =
        { done with faults := { done.faults with flags := done.faults.flags ||| flagBit .lateFire } }))

/-- A new entry stands after every entry not later than it and before every later one, its check bits computed
over its content, and the check of such an entry holds; an entry is replaced exactly when it holds a message key
of the offer. -/
def Obligations.EntriesAreInsertedInOrder : Prop :=
  ∀ (x : Firing) (fs : List Firing) (q : List CueEntry) (e : CueEntry),
    (q.Pairwise (fun a b => later a.fireTime x.fireTime = true → later b.fireTime x.fireTime = true) →
      insertAll [x] q = (q.filter fun y => !later y.fireTime x.fireTime) ++
        ⟨x.fireTime, x.content, x.content⟩ :: (q.filter fun y => later y.fireTime x.fireTime)) ∧
    (e.check = e.content → e.checkHolds = true) ∧
    insertAll (x :: fs) q = insertAll fs (insertAll [x] q) ∧
    (replacedBy fs e = true ↔ e.content.tag ≠ 0 ∧ ∃ sender, e.content.origin = .message sender ∧
      ∃ y ∈ fs, y.content.origin = .message sender ∧ y.content.tag = e.content.tag ∧
        y.content.channel = e.content.channel)

/-- A SCHEDULE that is handed on: a wrong length or time mode, a disabled channel, an invalid program and a fire
time too far or stale refuse it, in this order; otherwise it is offered to the queue with one firing per channel,
ascending, at the fire time of its time mode. -/
def Obligations.ScheduleIsValidatedInOrder : Prop :=
  ∀ (f : Frame) (a : BusTime) (s : State), HandedOn f a s →
    let u := s.arrived f a
    let form := f.payload.length = 17 ∧ (byteAt f.payload 2 = 0 ∨ byteAt f.payload 2 = 1)
    let enabled := ∀ c : ChannelId, (byteAt f.payload 0).getLsbD c.val = true →
      s.cfg.channels[c].enabled = true
    let fire := if byteAt f.payload 2 = 0 then field40 f.payload 3
      else f.stamp + (field32 f.payload 4).setWidth 40
    let d := signedDiff fire u.timebase.busTime
    (¬form → exec (.schedule f) s = .next (u.rejected .malformed .cueRejected)) ∧
    (form → ¬enabled → exec (.schedule f) s = .next (u.rejected .badChannel .cueRejected)) ∧
    (form → enabled → (rawProgramAt f.payload 8).judge = none →
      exec (.schedule f) s = .next (u.rejected .badProgram .cueRejected)) ∧
    (∀ p, form → enabled → (rawProgramAt f.payload 8).judge = some p →
      (2 ^ 31 < d → exec (.schedule f) s = .next (u.rejected .tooFar .cueRejected)) ∧
      (d < -(s.cfg.lateWindow : Int) → exec (.schedule f) s = .next (u.rejected .stale .staleCue)) ∧
      (-(s.cfg.lateWindow : Int) ≤ d → d ≤ 2 ^ 31 → exec (.schedule f) s = .next (u.offer
        (((List.finRange 8).filter fun c => (byteAt f.payload 0).getLsbD c.val).map fun c =>
          ⟨fire, ⟨c, p, .message f.sender, byteAt f.payload 1⟩⟩))))

/-- A STAGE that is handed on: a wrong length, a disabled channel, an invalid program, the tag 0 and an offset
beyond the horizon refuse it, in this order; otherwise the slots of its channels hold its firing with a fresh
lifetime, whatever they held, and nothing else changes. -/
def Obligations.StageFillsItsSlots : Prop :=
  ∀ (f : Frame) (a : BusTime) (s : State), HandedOn f a s →
    let u := s.arrived f a
    let enabled := ∀ c : ChannelId, (byteAt f.payload 0).getLsbD c.val = true →
      s.cfg.channels[c].enabled = true
    (f.payload.length ≠ 15 → exec (.stage f) s = .next (u.rejected .malformed .cueRejected)) ∧
    (f.payload.length = 15 →
      (¬enabled → exec (.stage f) s = .next (u.rejected .badChannel .cueRejected)) ∧
      (enabled → (rawProgramAt f.payload 6).judge = none →
        exec (.stage f) s = .next (u.rejected .badProgram .cueRejected)) ∧
      (∀ p, enabled → (rawProgramAt f.payload 6).judge = some p →
        (byteAt f.payload 1 = 0 → exec (.stage f) s = .next (u.rejected .malformed .cueRejected)) ∧
        (byteAt f.payload 1 ≠ 0 → 2 ^ 31 < (field32 f.payload 2).toNat →
          exec (.stage f) s = .next (u.rejected .tooFar .cueRejected)) ∧
        (byteAt f.payload 1 ≠ 0 → (field32 f.payload 2).toNat ≤ 2 ^ 31 →
          ∃ g, exec (.stage f) s = .next { u with staging := g } ∧
            (∀ c : ChannelId, (byteAt f.payload 0).getLsbD c.val = true → g[c] =
              some ⟨f.sender, byteAt f.payload 1, field32 f.payload 2, p, s.cfg.stagingLifetime⟩) ∧
            (∀ c : ChannelId, (byteAt f.payload 0).getLsbD c.val = false → g[c] = s.staging[c]))))

/-- A RELEASE that is handed on empties every slot of its tag, whoever staged it, and offers their firings
together, ascending by channel, at the stamp plus each offset; with no such slot it has no effect. -/
def Obligations.ReleaseOffersTheTaggedSlots : Prop :=
  ∀ (f : Frame) (a : BusTime) (s : State), HandedOn f a s →
    let u := s.arrived f a
    let tag := byteAt f.payload 0
    let tagged := (List.finRange 8).filterMap fun c => match s.staging[c] with
      | some g => if g.tag = tag then some (c, g) else none
      | none => none
    (f.payload.length ≠ 1 → exec (.release f) s = .next (u.rejected .malformed .cueRejected)) ∧
    (f.payload.length = 1 → tagged = [] → exec (.release f) s = .next u) ∧
    (f.payload.length = 1 → tagged ≠ [] → ∃ v,
      exec (.release f) s = .next (({ u with staging := v } : State).offer
        (tagged.map fun cg =>
          ⟨f.stamp + cg.2.offset.setWidth 40, ⟨cg.1, cg.2.program, .message cg.2.stager, cg.2.tag⟩⟩)) ∧
      ∀ c : ChannelId, v[c] = if (s.staging[c].map Staged.tag) = some tag then none else s.staging[c])

/-- A CANCEL row: a wrong length is refused; otherwise each scope bit removes what it names and nothing else
changes: QUEUE the stored entries, STAGED the filled slots, OUTPUT the work on the channels of its set.  Only when
it carries QUEUE and OUTPUT and the delivery of its instant waits behind it may one of these two scopes, which one
and whether being free (the model's choice, log 26), wait for that delivery. -/
def Obligations.CancelActsByItsScopes : Prop :=
  ∀ (c : Instr) (f : Frame) (a : BusTime) (s : State),
    c ∈ [.cancelQueue f, .cancelStaged f, .cancelOutput f, .cancelNoScope f] → HandedOn f a s →
    let u := s.arrived f a
    let set := byteAt f.payload 0
    let tag := byteAt f.payload 1
    let scope := byteAt f.payload 2
    let apart := scope.getLsbD 0 = true ∧ scope.getLsbD 2 = true ∧ s.scopeLeft = none ∧
      .dueDelivery ∈ s.pending
    let removed := u.queue.filter (fun e => !(scope.getLsbD 0 && set.getLsbD e.content.channel.val &&
      (decide (tag = 0) || (decide (e.content.origin = .message f.sender) && decide (e.content.tag = tag)))))
    let stopped := fun (v : Vector Channel 8) => ∀ i : ChannelId, v[i] =
      if scope.getLsbD 2 = true ∧ set.getLsbD i.val = true then
        match u.channels[i].phase with
        | .idle => u.channels[i]
        | .recover _ => { u.channels[i] with waiting := none }
        | .on _ => { u.channels[i] with phase := .recover s.cfg.channels[i].gap, waiting := none }
        | .off _ => { u.channels[i] with phase := .recover s.cfg.channels[i].gap, waiting := none }
        | .hold => { u.channels[i] with phase := .recover s.cfg.channels[i].gap, waiting := none }
      else u.channels[i]
    (f.payload.length ≠ 3 → exec c s = .next (u.rejected .malformed .cueRejected)) ∧
    (f.payload.length = 3 → ∃ q g v l,
      exec c s = .next { u with queue := q, staging := g, channels := v, scopeLeft := l } ∧
      (∀ i : ChannelId, g[i] =
        if scope.getLsbD 1 = true ∧ set.getLsbD i.val = true then
          s.staging[i].filter (fun k => !(decide (tag = 0) || (decide (k.tag = tag) && decide (k.stager = f.sender))))
        else s.staging[i]) ∧
      ((q = removed ∧ stopped v ∧ l = s.scopeLeft) ∨
        (apart ∧ q = u.queue ∧ stopped v ∧ l = some ⟨.queue, f.sender, set, tag⟩) ∨
        (apart ∧ q = removed ∧ v = u.channels ∧ l = some ⟨.output, f.sender, set, tag⟩)))

/-- A PROBE row is accepted when it comes in STATION mode with 2 bytes and a known selector, the station is not
mute and the latch is empty: the latch holds the probe id, the prober, the selector and the body of this instant,
a REPORT request joins, and a PEERS selector clears every lost latch.  One that fails a condition has no effect
beyond the stages of its arrival, the lost latches included. -/
def Obligations.ProbeFillsTheLatchOrIsIgnored : Prop :=
  (∀ (c : Instr) (f : Frame) (a : BusTime) (s : State) (sel : Selector),
     c ∈ [.probeStatus f, .probePeers f, .probeLeadsLo f, .probeLeadsHi f, .probeQueue f, .probeIgnored f] →
     HandedOn f a s → f.destMode = .station → f.payload.length = 2 → byteAt f.payload 1 = (match sel with
       | .status => 1 | .peers => 2 | .leadsLo => 3 | .leadsHi => 4 | .queue => 5) →
     s.mute = false → s.faults.latch = none → .report ∉ s.line.txList →
     let u := s.arrived f a
     ∃ p, exec c s = .next { u with
         faults := { u.faults with latch := some ⟨byteAt f.payload 0, f.sender, sel, u.body sel⟩ },
         line := { u.line with txList := s.line.txList ++ [.report] },
         peers := p } ∧
       (sel = .peers → ∀ x : StationId, p[x] = { u.peers[x] with lost := false }) ∧
       (sel ≠ .peers → p = u.peers)) ∧
  (∀ (c : Instr) (f : Frame) (a : BusTime) (s : State),
     c ∈ [.probeStatus f, .probePeers f, .probeLeadsLo f, .probeLeadsHi f, .probeQueue f, .probeIgnored f] →
     HandedOn f a s →
     (f.destMode ≠ .station ∨ f.payload.length ≠ 2 ∨ s.mute = true ∨ s.faults.latch ≠ none ∨
       (byteAt f.payload 1).toNat = 0 ∨ 5 < (byteAt f.payload 1).toNat) →
     exec c s = .next (s.arrived f a))

/-- The STATUS body has 33 bytes with the content and the codes of its layout; the PEERS body shows each peer's
presence, lost latch, summary, has faults and is synced; the LEADS bodies the leads of the two halves; the QUEUE
body the count and the first seven entries.  Unused bits are zero. -/
def Obligations.ReportBodyLayouts : Prop :=
  (∀ s : State, s.line.txList.length ≤ 5 → s.queue.length ≤ 32 → ChannelsSound s →
     let b := s.body .status
     b.length = 33 ∧
     byteAt b 0 = (match s.loader.life with
       | .loading => 0 | .unconfigured => 1 | .joining => 2 | .running => 3) ∧
     (byteAt b 1).getLsbD 7 = s.mute ∧ (byteAt b 1).getLsbD 6 = decide (s.line.mode = .openRound) ∧
     (byteAt b 1).getLsbD 5 = s.line.announcedTimer.isSome ∧ (byteAt b 1).extractLsb' 3 2 = 0 ∧
     ((byteAt b 1).extractLsb' 0 3).toNat = s.line.txList.length ∧
     (∀ x, s.line.lastSender = some x → (byteAt b 2).toNat = x.val) ∧
     field16 b 3 = s.faults.flags.setWidth 16 ∧ field16 b 5 = s.faults.mask.setWidth 16 ∧
     byteAt b 7 = (match s.faults.reason with
       | .noReason => 0 | .badChannel => 1 | .badProgram => 2 | .tooFar => 3 | .stale => 4 | .queueFull => 5
       | .malformed => 6) ∧
     field40 b 8 = s.timebase.busTime ∧ (byteAt b 13).toNat = s.queue.length ∧
     (∀ c : ChannelId, (byteAt b 14).getLsbD c.val = s.staging[c].isSome) ∧
     (∀ n : InputId, (byteAt b 15).getLsbD (4 + n.val) = s.inputs[n].slotInFlight ∧
       (byteAt b 15).getLsbD n.val = s.inputs[n].slot.isSome ∧
       (byteAt b 16).getLsbD n.val = s.inputs[n].slotOverrun) ∧ (byteAt b 16).extractLsb' 4 4 = 0 ∧
     (∀ c : ChannelId,
       (byteAt b (17 + 2 * c.val)).extractLsb' 5 3 = (match s.channels[c].phase with
         | .idle => 0 | .on _ => 1 | .off _ => 2 | .recover _ => 3 | .hold => 4) ∧
       (byteAt b (17 + 2 * c.val)).extractLsb' 3 2 = 0 ∧
       (s.channels[c].running = none → (byteAt b (17 + 2 * c.val)).extractLsb' 0 3 = 0) ∧
       (∀ p, s.channels[c].running = some p →
         (p.kind = .pulse ∧ (byteAt b (17 + 2 * c.val)).extractLsb' 0 3 = 1 ∨
           p.kind = .retrig ∧ (byteAt b (17 + 2 * c.val)).extractLsb' 0 3 = 2 ∨
           p.kind = .train ∧ (byteAt b (17 + 2 * c.val)).extractLsb' 0 3 = 3 ∨
           p.kind = .square ∧ (byteAt b (17 + 2 * c.val)).extractLsb' 0 3 = 4 ∨
           p.kind = .levelOn ∧ (byteAt b (17 + 2 * c.val)).extractLsb' 0 3 = 5)) ∧
       (byteAt b (18 + 2 * c.val)).extractLsb' 4 4 = 0 ∧
       (byteAt b (18 + 2 * c.val)).getLsbD 3 = s.channels[c].waiting.isSome ∧
       (byteAt b (18 + 2 * c.val)).getLsbD 2 = s.channels[c].late ∧
       (byteAt b (18 + 2 * c.val)).getLsbD 1 = s.channels[c].overwritten ∧
       (byteAt b (18 + 2 * c.val)).getLsbD 0 = s.channels[c].active)) ∧
  (∀ s : State,
     (s.body .peers).length = 32 ∧ (s.body .leadsLo).length = 32 ∧ (s.body .leadsHi).length = 32 ∧
     (∀ x : StationId,
       (byteAt (s.body .peers) x.val).extractLsb' 6 2 = (match s.peers[x].presence with
         | .absent => 0 | .present _ => 1 | .silent => 2) ∧
       (byteAt (s.body .peers) x.val).getLsbD 5 = s.peers[x].lost ∧
       (byteAt (s.body .peers) x.val).getLsbD 4 = s.peers[x].summary.isSome ∧
       ((byteAt (s.body .peers) x.val).getLsbD 3 = true ↔
         ∃ m, s.peers[x].summary = some m ∧ ∃ n, n ≤ 12 ∧ m.faults.getLsbD n = true) ∧
       ((byteAt (s.body .peers) x.val).getLsbD 2 = true ↔ ∃ m, s.peers[x].summary = some m ∧ m.life = 3) ∧
       (byteAt (s.body .peers) x.val).extractLsb' 0 2 = 0) ∧
     (∀ x : StationId, (x.val < 16 → field16 (s.body .leadsLo) (2 * x.val) = s.peers[x].lead) ∧
       (16 ≤ x.val → field16 (s.body .leadsHi) (2 * (x.val - 16)) = s.peers[x].lead)) ∧
     (s.body .queue).length = 1 + 8 * min s.queue.length 7 ∧
     byteAt (s.body .queue) 0 = BitVec.ofNat 8 s.queue.length ∧
     (∀ (i : Nat) (e : CueEntry), i < 7 → s.queue[i]? = some e →
       field40 (s.body .queue) (1 + 8 * i) = e.fireTime ∧
       (byteAt (s.body .queue) (6 + 8 * i)).toNat = e.content.channel.val ∧
       (∀ x, e.content.origin = .message x → (byteAt (s.body .queue) (7 + 8 * i)).toNat = x.val) ∧
       (∀ n, e.content.origin = .binding n → (byteAt (s.body .queue) (7 + 8 * i)).toNat = 128 + n.val) ∧
       byteAt (s.body .queue) (8 + 8 * i) = e.content.tag))

/-- A CLEAR that is handed on clears exactly the flags it names; one of a wrong length is refused and clears
nothing; one that clears a set ID_CLASH ends mute: the full capture slots raise their requests in ascending
order, and the beacon timer starts with a BEACON request after them. -/
def Obligations.ClearEndsFlagsAndMute : Prop :=
  ∀ (f : Frame) (a : BusTime) (s : State), HandedOn f a s →
    let u := s.arrived f a
    let named : BitVec 13 := (byteAt f.payload 0 ++ byteAt f.payload 1 : BitVec 16).setWidth 13
    let cleared := { u.faults with flags := u.faults.flags &&& ~~~named }
    (f.payload.length ≠ 2 → exec (.clear f) s = .next (u.rejected .malformed .cueRejected)) ∧
    (f.payload.length = 2 → ¬(s.mute = true ∧ named.getLsbD 9 = true) →
      exec (.clear f) s = .next { u with faults := cleared }) ∧
    (f.payload.length = 2 → s.mute = true → named.getLsbD 9 = true → s.line.txList = [] →
      ∃ t, exec (.clear f) s = .next t ∧ t = { u with
        faults := cleared,
        line := { u.line with
          txList := ((List.finRange 4).filter fun n => s.inputs[n].slot.isSome).map .edge ++ [.beacon],
          beaconTimer := some s.cfg.beaconInterval } } ∧ t.mute = false)

/-- A RESTART that is handed on in STATION mode with no payload sets every block as RESET does, starts the read at
once, and keeps the fault flags but ID_CLASH, the mask and the last reject reason; any other RESTART has no
effect beyond the stages of its arrival. -/
def Obligations.RestartKeepsTheFlags : Prop :=
  ∀ (f : Frame) (a : BusTime) (s : State), HandedOn f a s →
    let u := s.arrived f a
    (f.destMode = .station → f.payload.length = 0 → ∃ r, exec .reset u = .next r ∧
      exec (.restart f) s = .next { r with
        loader := { r.loader with held := false, readLeft := some 20800 },
        faults := ⟨u.faults.flags &&& ~~~flagBit .idClash, u.faults.mask, u.faults.reason, none⟩ }) ∧
    ((f.destMode ≠ .station ∨ f.payload.length ≠ 0) → exec (.restart f) s = .next u)

/-! ### Inputs -/

/-- A sample at a sample instant of a RUNNING station that completes no edge: an agreeing level discards the run,
a differing one extends it from the bus time of its first sample, the K-th accepts the new level; the next sample
instant is one period away and nothing else changes.  At no sample instant nothing changes (log 3). -/
def Obligations.SampleFeedsTheFilter : Prop :=
  ∀ (n : InputId) (level : Bool) (s : State),
    let next := some s.cfg.inputs[n].period
    let seen := { s.ext with tin := s.ext.tin.set n level }
    let put := fun (i : Input) => ({ s with ext := seen, inputs := s.inputs.set n i } : State)
    (s.loader.life = .running → s.inputs[n].sampleTimer = some 0 →
      (s.inputs[n].stable = none → exec (.inputSample n level) s =
        .next (put { s.inputs[n] with stable := some level, run := none, sampleTimer := next })) ∧
      (s.inputs[n].stable = some level → exec (.inputSample n level) s =
        .next (put { s.inputs[n] with run := none, sampleTimer := next })) ∧
      (s.inputs[n].stable = some (!level) →
        (∀ count since, (s.inputs[n].run = none ∧ count = 1 ∧ since = s.timebase.busTime ∨
            ∃ r, s.inputs[n].run = some r ∧ count = r.samples + 1 ∧ since = r.since) →
          (count < s.cfg.inputs[n].count → exec (.inputSample n level) s =
            .next (put { s.inputs[n] with run := some ⟨count, since⟩, sampleTimer := next })) ∧
          (s.cfg.inputs[n].count ≤ count → s.cfg.inputs[n].select.selects level = false →
            exec (.inputSample n level) s =
              .next (put { s.inputs[n] with stable := some level, run := none, sampleTimer := next }))))) ∧
    ((s.loader.life ≠ .running ∨ s.inputs[n].sampleTimer ≠ some 0) → exec (.inputSample n level) s = .next s)

/-- The sample that completes an accepted change of a selected direction is an edge, by either row: the count
rises, the capture has the time of the run's first sample, it is judged by the station's own bindings, and then
it goes to the capture slot.  A sample that completes none, being the first, an agreeing one, one of a run still
shorter than the filter count, or the accepted change of an unselected direction, is no INPUT_EDGE (log 16), nor is
anything at an instant that is no sample instant of a RUNNING station (log 3). -/
def Obligations.EdgeIsCapturedAndSelfDelivered : Prop :=
  (∀ (n : InputId) (level : Bool) (s : State), s.loader.life = .running → s.inputs[n].sampleTimer = some 0 →
     (∀ count since, s.inputs[n].stable = some (!level) →
       (s.inputs[n].run = none ∧ count = 1 ∧ since = s.timebase.busTime ∨
         ∃ r, s.inputs[n].run = some r ∧ count = r.samples + 1 ∧ since = r.since) →
       s.cfg.inputs[n].count ≤ count → s.cfg.inputs[n].select.selects level = true →
       let number := s.inputs[n].edgeCount + 1
       let counted : State := { s with
         ext := { s.ext with tin := s.ext.tin.set n level },
         inputs := s.inputs.set n { s.inputs[n] with
           stable := some level, run := none, sampleTimer := some s.cfg.inputs[n].period,
           edgeCount := number } }
       let after := ((List.finRange 16).foldl
         (State.judgeEntry s.cfg.ownId ⟨n, level, number, since⟩) counted).updateSlot n
           ⟨since, level, number, false⟩
       exec (.inputEdge n level) s = .next after ∧ exec (.inputSample n level) s = .next after) ∧
     ((s.inputs[n].stable = none ∨ s.inputs[n].stable = some level) →
       exec (.inputEdge n level) s = .next s) ∧
     (∀ count, s.inputs[n].stable = some (!level) →
       (s.inputs[n].run = none ∧ count = 1 ∨ ∃ r, s.inputs[n].run = some r ∧ count = r.samples + 1) →
       (count < s.cfg.inputs[n].count ∨ s.cfg.inputs[n].select.selects level = false) →
       exec (.inputEdge n level) s = .next s)) ∧
  (∀ (n : InputId) (level : Bool) (s : State),
     (s.loader.life ≠ .running ∨ s.inputs[n].sampleTimer ≠ some 0) → exec (.inputEdge n level) s = .next s)

/-- An edge updates the capture slot by its condition: empty it fills, with a request unless mute; full and not in
flight it is replaced with overrun; in flight the capture becomes the follow-on, or replaces it with overrun. -/
def Obligations.CaptureSlotUpdate : Prop :=
  ∀ (n : InputId) (k : Capture) (s : State),
    let put := fun (i : Input) (s : State) => ({ s with inputs := s.inputs.set n i } : State)
    let overrun := fun (s : State) =>
      ({ s with faults := { s.faults with flags := s.faults.flags ||| flagBit .captureOverrun } } : State)
    (s.inputs[n].slot = none →
      (s.loader.life = .running → s.mute = false → .edge n ∉ s.line.txList → s.updateSlot n k =
        put { s.inputs[n] with slot := some ⟨k, false⟩ }
          { s with line := { s.line with txList := s.line.txList ++ [.edge n] } }) ∧
      (s.mute = true → s.updateSlot n k = put { s.inputs[n] with slot := some ⟨k, false⟩ } s)) ∧
    (∀ g, s.inputs[n].slot = some g →
      (g.inFlight = false → s.updateSlot n k =
        overrun (put { s.inputs[n] with slot := some ⟨{ k with overrun := true }, false⟩ } s)) ∧
      (g.inFlight = true → s.inputs[n].followOn = none → s.updateSlot n k =
        put { s.inputs[n] with followOn := some k } s) ∧
      (g.inFlight = true → s.inputs[n].followOn ≠ none → s.updateSlot n k =
        overrun (put { s.inputs[n] with followOn := some { k with overrun := true } } s)))

/-! ### The tick of bus time and the channels -/

/-- DUE_DELIVERY is the tick that brings bus time to T, whether or not an entry is due (the model's reading, log 10).
It removes the entries whose fire time is T, which stand at the head of the queue, and takes them in queue order:
an entry whose check holds (the check function is free, log 5) is handed to its channel on time, any other is
discarded with STORE_PARITY.  A scope of a CANCEL that has waited for this delivery acts right after it (the
model's choice, log 26): QUEUE on the entries still stored, OUTPUT on the channels as the delivery has left them. -/
def Obligations.TickDeliversTheDueEntries : Prop :=
  ∀ s : State, s.loader.held = false → QueueSound s →
    let now := s.timebase.busTime + 1
    let due := s.queue.takeWhile fun e => decide (e.fireTime = now)
    let rest := s.queue.dropWhile fun e => decide (e.fireTime = now)
    let d := due.foldl
      (fun t e =>
        if e.checkHolds then
          { t with
            channels := t.channels.set e.content.channel
              (t.channels[e.content.channel].takeFiring s.cfg.channels[e.content.channel].gap
                e.content.program false) }
        else { t with faults := { t.faults with flags := t.faults.flags ||| flagBit .storeParity } })
      { s with timebase := { s.timebase with busTime := now }, queue := rest }
    (∀ e ∈ due, e.fireTime = now) ∧ (∀ e ∈ rest, later e.fireTime now = true) ∧
    (s.scopeLeft = none → exec .dueDelivery s = .next d) ∧
    (∀ x set tag, s.scopeLeft = some ⟨.queue, x, set, tag⟩ → exec .dueDelivery s = .next { d with
      queue := rest.filter (fun e => !(set.getLsbD e.content.channel.val &&
        (decide (tag = 0) || (decide (e.content.origin = .message x) && decide (e.content.tag = tag))))),
      scopeLeft := none }) ∧
    (∀ x set tag, s.scopeLeft = some ⟨.output, x, set, tag⟩ → ∃ v,
      exec .dueDelivery s = .next { d with channels := v, scopeLeft := none } ∧
      ∀ i : ChannelId, v[i] =
        if set.getLsbD i.val = true then
          match d.channels[i].phase with
          | .idle => d.channels[i]
          | .recover _ => { d.channels[i] with waiting := none }
          | .on _ => { d.channels[i] with phase := .recover s.cfg.channels[i].gap, waiting := none }
          | .off _ => { d.channels[i] with phase := .recover s.cfg.channels[i].gap, waiting := none }
          | .hold => { d.channels[i] with phase := .recover s.cfg.channels[i].gap, waiting := none }
        else d.channels[i])

/-- How a firing meets a channel: a non-level firing starts an IDLE channel, waits in ON, OFF and RECOVER and
replaces a waiting one with the overwritten marker; LEVEL_ON holds any channel; LEVEL_OFF stops ON, OFF and HOLD
into RECOVER, and empties the pending slot.  The other channels are untouched. -/
def Obligations.FiringMeetsAChannel : Prop :=
  ∀ (c : ChannelId) (p : Program) (late : Bool) (s : State),
    let k := s.channels[c]
    let g := s.cfg.channels[c].gap
    let put := fun (x : Channel) => ({ s with channels := s.channels.set c x } : State)
    let waits := put { k with waiting := some ⟨p, late⟩, overwritten := k.overwritten || k.waiting.isSome }
    (p.kind ≠ .levelOn → p.kind ≠ .levelOff →
      (k.phase = .idle →
        (p.kind = .square → s.deliver c p late = put { k with
          phase := .on ((p.period.toNat + 1) / 2), running := some p, late := late,
          remaining := if p.count = 0 then none else some p.count.toNat }) ∧
        (p.kind = .train → s.deliver c p late = put { k with
          phase := .on p.width.toNat, running := some p, late := late,
          remaining := if p.count = 0 then none else some p.count.toNat }) ∧
        (p.kind = .pulse ∨ p.kind = .retrig → s.deliver c p late = put { k with
          phase := .on p.width.toNat, running := some p, late := late, remaining := none })) ∧
      (∀ n, k.phase = .off n ∨ k.phase = .recover n → s.deliver c p late = waits) ∧
      (∀ n, k.phase = .on n → (p.kind ≠ .retrig ∨ ∀ q, k.running = some q → q.kind ≠ .retrig) →
        s.deliver c p late = waits)) ∧
    (p.kind = .levelOn → s.deliver c p late = put { k with
      phase := .hold, running := some p, remaining := none, waiting := none, late := late }) ∧
    (p.kind = .levelOff →
      (k.phase = .idle → s.deliver c p late = s) ∧
      (∀ n, k.phase = .recover n → s.deliver c p late = put { k with waiting := none }) ∧
      ((∃ n, k.phase = .on n ∨ k.phase = .off n) ∨ k.phase = .hold →
        s.deliver c p late = put { k with phase := .recover g, waiting := none }))

/-- A RETRIG firing that meets a RETRIG in ON restarts the ON phase with its own width: the running program and
the late marker are the new firing's, the output stays active, the pending slot is left.  One that finds a RETRIG
in RECOVER, or another program in ON, is placed in the pending slot. -/
def Obligations.RetrigRestartsOn : Prop :=
  ∀ (g n : Nat) (p : Program) (late : Bool) (k : Channel), p.kind = .retrig →
    (∀ q, k.phase = .on n → k.running = some q → q.kind = .retrig →
      k.takeFiring g p late = { k with phase := .on p.width.toNat, running := some p, late := late } ∧
      (k.takeFiring g p late).active = true ∧ k.active = true) ∧
    (∀ q, k.running = some q →
      (k.phase = .recover n ∧ q.kind = .retrig ∨
        k.phase = .on n ∧ (q.kind = .pulse ∨ q.kind = .train ∨ q.kind = .square)) →
      k.takeFiring g p late =
        { k with waiting := some ⟨p, late⟩, overwritten := k.overwritten || k.waiting.isSome })

/-- A non-level firing ends a hold: the channel drives its idle level in RECOVER with a fresh gap, the firing
waits, the hold's running program and late marker stay, and the firing starts when the gap expires. -/
def Obligations.NonLevelFiringEndsAHold : Prop :=
  ∀ (g : Nat) (p : Program) (late : Bool) (k : Channel), k.phase = .hold → k.waiting = none →
    p.kind ≠ .levelOn → p.kind ≠ .levelOff →
    k.takeFiring g p late = { k with phase := .recover g, waiting := some ⟨p, late⟩ } ∧
    (k.takeFiring g p late).active = false ∧
    ∃ n, (k.takeFiring g p late).recoverEnds = { k with
        phase := .on n, running := some p, late := late, waiting := none,
        remaining := if (p.kind = .train ∨ p.kind = .square) ∧ p.count ≠ 0 then some p.count.toNat
          else none } ∧
      n = if p.kind = .square then (p.period.toNat + 1) / 2 else p.width.toNat

/-- The expiries of a channel's phases: ON ends in RECOVER, or in OFF for a SQUARE and for a TRAIN whose count is
not spent; OFF ends in ON again, or in RECOVER when a firing waits or a SQUARE's count is spent; RECOVER ends in
the start of the waiting firing or in IDLE.  An expiry of a timer that does not stand at zero does nothing
(log 3). -/
def Obligations.PhaseExpiries : Prop :=
  ∀ (c : ChannelId) (s : State),
    let k := s.channels[c]
    let g := s.cfg.channels[c].gap
    let put := fun (x : Channel) => (.next { s with channels := s.channels.set c x } : Result)
    let less := k.remaining.map (· - 1)
    (∀ p, k.phase = .on 0 → k.running = some p →
      (p.kind = .pulse ∨ p.kind = .retrig → exec (.onPhaseExpiry c) s = put { k with phase := .recover g }) ∧
      (p.kind = .train → less = some 0 →
        exec (.onPhaseExpiry c) s = put { k with phase := .recover g, remaining := less }) ∧
      (p.kind = .train → less ≠ some 0 → exec (.onPhaseExpiry c) s =
        put { k with phase := .off (p.period.toNat - p.width.toNat), remaining := less }) ∧
      (p.kind = .square → exec (.onPhaseExpiry c) s = put { k with phase := .off (p.period.toNat / 2) })) ∧
    (∀ p, k.phase = .off 0 → k.running = some p →
      (p.kind = .train → k.waiting ≠ none →
        exec (.offPhaseExpiry c) s = put { k with phase := .recover g }) ∧
      (p.kind = .train → k.waiting = none →
        exec (.offPhaseExpiry c) s = put { k with phase := .on p.width.toNat }) ∧
      (p.kind = .square → (less = some 0 ∨ k.waiting ≠ none) →
        exec (.offPhaseExpiry c) s = put { k with phase := .recover g, remaining := less }) ∧
      (p.kind = .square → less ≠ some 0 → k.waiting = none → exec (.offPhaseExpiry c) s =
        put { k with phase := .on ((p.period.toNat + 1) / 2), remaining := less })) ∧
    (k.phase = .recover 0 →
      (k.waiting = none → exec (.recoverExpiry c) s = put { k with
        phase := .idle, running := none, remaining := none, overwritten := false }) ∧
      (∀ w, k.waiting = some w → w.program.kind ≠ .levelOn → w.program.kind ≠ .levelOff →
        exec (.recoverExpiry c) s = put { k with
          phase := .on (if w.program.kind = .square then (w.program.period.toNat + 1) / 2
            else w.program.width.toNat),
          running := some w.program, late := w.late, waiting := none,
          remaining := if (w.program.kind = .train ∨ w.program.kind = .square) ∧ w.program.count ≠ 0 then
            some w.program.count.toNat else none })) ∧
    (k.phase ≠ .on 0 → exec (.onPhaseExpiry c) s = .next s) ∧
    (k.phase ≠ .off 0 → exec (.offPhaseExpiry c) s = .next s) ∧
    (k.phase ≠ .recover 0 → exec (.recoverExpiry c) s = .next s)

/-! ### The other timers -/

/-- The expiry of the beacon timer starts it again and joins a BEACON request unless one stands; that of the
announced timer clears the announced flag; that of a silence timer makes the peer SILENT with its lost latch set;
a candidate's discards it with TIME_CONFLICT; a staging slot's empties it with STAGE_LAPSED; nothing else
changes.  A timer that does not stand at zero does not expire (log 3). -/
def Obligations.TimersExpireAtZero : Prop :=
  (∀ (x : StationId) (s : State),
     (s.line.beaconTimer = some 0 → s.loader.life = .running → s.mute = false →
       exec .beaconTimerExpiry s = .next { s with line := { s.line with
         beaconTimer := some s.cfg.beaconInterval,
         txList := if .beacon ∈ s.line.txList then s.line.txList else s.line.txList ++ [.beacon] } }) ∧
     (s.line.beaconTimer ≠ some 0 → exec .beaconTimerExpiry s = .next s) ∧
     (s.line.announcedTimer = some 0 → exec .announcedTimerExpiry s =
       .next { s with line := { s.line with announcedTimer := none } }) ∧
     (s.line.announcedTimer ≠ some 0 → exec .announcedTimerExpiry s = .next s) ∧
     (s.peers[x].presence = .present 0 → exec (.silenceTimerExpiry x) s =
       .next { s with peers := s.peers.set x { s.peers[x] with presence := .silent, lost := true } }) ∧
     (s.peers[x].presence ≠ .present 0 → exec (.silenceTimerExpiry x) s = .next s)) ∧
  (∀ (c : ChannelId) (s : State),
     (∀ l, s.timebase.candidate = some ⟨l, 0⟩ → exec .candidateExpiry s =
       .next { s with
         timebase := { s.timebase with candidate := none },
         faults := { s.faults with flags := s.faults.flags ||| flagBit .timeConflict } }) ∧
     ((∀ l, s.timebase.candidate ≠ some ⟨l, 0⟩) → exec .candidateExpiry s = .next s) ∧
     (∀ g, s.staging[c] = some g → g.lifetime = 0 → exec (.stageLapse c) s =
       .next { s with
         staging := s.staging.set c none,
         faults := { s.faults with flags := s.faults.flags ||| flagBit .stageLapsed } }) ∧
     ((∀ g, s.staging[c] = some g → g.lifetime ≠ 0) → exec (.stageLapse c) s = .next s))

/-! ### Pins -/

/-- Each output is at its active level exactly in ON and HOLD and at its idle level otherwise, by its polarity,
and is undriven exactly while the station is LOADING or UNCONFIGURED; the fault flags, mute among them, play no
part. -/
def Obligations.OutputsFollowTheChannels : Prop :=
  ∀ (s : State) (c : ChannelId),
    (s.tout c = none ↔ s.loader.life = .loading ∨ s.loader.life = .unconfigured) ∧
    (s.loader.life = .joining ∨ s.loader.life = .running →
      ((∃ n, s.channels[c].phase = .on n) ∨ s.channels[c].phase = .hold →
        s.tout c = some (!s.cfg.channels[c].activeLow)) ∧
      (s.channels[c].phase = .idle ∨ (∃ n, s.channels[c].phase = .off n ∨ s.channels[c].phase = .recover n) →
        s.tout c = some s.cfg.channels[c].activeLow)) ∧
    (∀ u, ({ s with faults := u } : State).tout c = s.tout c)

/-- FAULT is asserted exactly when the station is UNCONFIGURED or a flag whose mask bit is clear is set; SYNC
exactly while the timebase is SYNCED; MCS exactly during a read.  LTXE is driven for the bits of an own frame
until an abort (log 24 for the end), and LTX carries each bit as its two halves, a one low then high, a zero high
then low.  MCK runs one cycle for every 8 ticks of a read, with one phase and duty (free, log 12), and MDO shows
03h and 0000h, changing after each falling edge and before the next rising one; outside a read both are low. -/
def Obligations.FaultSyncAndReadPins : Prop :=
  (∀ s : State,
    (s.faultLine = true ↔ s.loader.life = .unconfigured ∨
      ∃ n, n < 13 ∧ s.faults.flags.getLsbD n = true ∧ s.faults.mask.getLsbD n = false) ∧
    (s.syncLine = true ↔ s.timebase.sync = .synced) ∧ (s.mcs = true ↔ s.loader.readLeft ≠ none)) ∧
  (∀ s : State,
    ((∀ x, s.line.episode ≠ .own x) → s.ltxe = false ∧ s.ltx = none) ∧
    (∀ x, s.line.episode = .own x →
      (s.ltxe = true ↔ x.driving = true ∧ 2 * s.cfg.bitTicks < x.left) ∧
      (s.ltxe = false → s.ltx = none) ∧
      (s.ltxe = true → ∀ i b, (lineBits x.bytes)[i]? = some b →
        let sent := s.cfg.bitTicks * (24 + 8 * x.bytes.length + 2) - x.left
        (s.cfg.bitTicks * i ≤ sent → sent < s.cfg.bitTicks * i + s.cfg.bitTicks / 2 → s.ltx = some (!b)) ∧
        (s.cfg.bitTicks * i + s.cfg.bitTicks / 2 ≤ sent → sent < s.cfg.bitTicks * (i + 1) →
          s.ltx = some b)))) ∧
  (∃ rise high delay : Nat, rise < 8 ∧ 1 ≤ high ∧ high + delay < 8 ∧
    ∀ s : State,
      (s.loader.readLeft = none → s.mck = false ∧ s.mdo = false) ∧
      (∀ left, s.loader.readLeft = some left →
        let t := 20800 - left
        (s.mck = true ↔ t < 20800 ∧ rise ≤ t ∧ (t - rise) % 8 < high) ∧
        (t < rise + high + delay → s.mdo = false) ∧
        (∀ i, i < 24 → rise + high + delay + 8 * i ≤ t + 8 → t < rise + high + delay + 8 * i →
          (s.mdo = true ↔ i = 6 ∨ i = 7))))

/-! ### Frames on the line -/

/-- A frame of any kind with at most 64 payload bytes has the bytes that its layout and the frame check give, opens
with the preamble and the delimiter, and its levels on the line, heard from the start of the preamble or up to 16
bits late, with the last level held for any time, are judged good and give back the kind and every field.  A bit
time without a transition at its middle makes the episode bad after the delimiter, and does not in the preamble
(levels by half bits: log 11).  Nothing else is good: the bytes that are read as a frame are that frame's bytes, and
a reception judged good is, after at most 24 bit times, the levels of the delimiter and of those bytes and then the
last level held (log 22).  The frame end of a reception is the row of the class and, from a peer, of the kind
(log 4). -/
def Obligations.FramesReadBack : Prop :=
  (∀ (k : BitVec 4) (f : Frame), f.payload.length ≤ 64 →
    let bytes := frameBytes k f
    let n := f.payload.length
    readFrame bytes = some (k, f) ∧
    (bytes.length = 12 + n ∧
      byteAt bytes 0 = k ++ (match f.destMode with | .station => 0#2 | .groups => 1#2 | .all => 2#2) ++ 0#2 ∧
      (byteAt bytes 1).toNat = f.sender.val ∧ field16 bytes 2 = f.dest ∧ field40 bytes 4 = f.stamp ∧
      (byteAt bytes 9).toNat = n ∧ (bytes.drop 10).take n = f.payload ∧
      field16 bytes (10 + n) = crc16 (bytes.take (10 + n))) ∧
    (lineBits bytes).take 24 =
      [true, false, true, false, true, false, true, false, true, false, true, false, true, false, true, false,
        false, true, true, false, true, false, true, true] ∧
    (∀ (n held : Nat) (last : Bool), n ≤ 32 → (lineLevels bytes).getLast? = some last →
      judgeReception ⟨(lineLevels bytes).drop n ++ List.replicate held last⟩ = some (k, f)) ∧
    (∀ (i : Nat) (before after : List Bool) (a b c : Bool),
      lineLevels bytes = before ++ a :: b :: after → before.length = 2 * i →
      (24 ≤ i → judgeReception ⟨before ++ c :: c :: after⟩ = none) ∧
      (i < 16 → judgeReception ⟨before ++ c :: c :: after⟩ = some (k, f)))) ∧
  (crc16 [] = 0xFFFF ∧ ∀ (l : List Byte) (b : Byte), crc16 (l ++ [b]) = [7, 6, 5, 4, 3, 2, 1, 0].foldl
    (fun (c : BitVec 16) i => if c.msb = b.getLsbD i then c <<< 1 else (c <<< 1) ^^^ 0x1021) (crc16 l)) ∧
  (∀ (l : List Byte) (k : BitVec 4) (f : Frame), readFrame l = some (k, f) →
    f.payload.length ≤ 64 ∧ l = frameBytes k f) ∧
  (∀ (r : Reception) (k : BitVec 4) (f : Frame), judgeReception r = some (k, f) →
    f.payload.length ≤ 64 ∧ ∃ (lead : List Bool) (held : Nat) (last : Bool), lead.length ≤ 48 ∧
      (lineLevels (frameBytes k f)).getLast? = some last ∧
      r.levels = lead ++ (lineLevels (frameBytes k f)).drop 32 ++ List.replicate held last) ∧
  (∀ (ownId : StationId) (slots : Nat) (r : Reception),
    (judgeReception r = none → receptionCommand ownId slots r = .badEpisode) ∧
    (∀ (k : BitVec 4) (f : Frame), judgeReception r = some (k, f) →
      let scope := byteAt f.payload 2
      let selector := byteAt f.payload 1
      (slots ≤ f.sender.val → receptionCommand ownId slots r = .foreignFrame) ∧
      (f.sender.val < slots → f.sender = ownId → receptionCommand ownId slots r = .clash) ∧
      (f.sender.val < slots → f.sender ≠ ownId → receptionCommand ownId slots r =
        if k = 1 then .beacon f else if k = 2 then .edge f else if k = 3 then .schedule f
        else if k = 4 then .stage f else if k = 5 then .release f
        else if k = 6 then
          (if scope.getLsbD 0 = true then .cancelQueue f else if scope.getLsbD 1 = true then .cancelStaged f
            else if scope.getLsbD 2 = true then .cancelOutput f else .cancelNoScope f)
        else if k = 7 then
          (if f.payload.length ≠ 2 then .probeIgnored f
            else if selector = 1 then .probeStatus f else if selector = 2 then .probePeers f
            else if selector = 3 then .probeLeadsLo f else if selector = 4 then .probeLeadsHi f
            else if selector = 5 then .probeQueue f else .probeIgnored f)
        else if k = 8 then .report f else if k = 9 then .clear f else if k = 10 then .restart f
        else .unknownKind k f)))

/-! ### Properties that every step keeps -/

/-- Reset meets every property below. -/
def Obligations.ResetMeetsEveryInvariant : Prop :=
  LifeConduct State.reset ∧ ReadSound State.reset ∧ QueueSound State.reset ∧ RequestsSound State.reset ∧
    ChannelsSound State.reset ∧ RoundsSound State.reset ∧ PeersSound State.reset ∧
    StagingSound State.reset ∧ DisabledChannelsRest State.reset

/-- Every step keeps the blocks' conduct in each life state: SYNCED exactly in RUNNING, a read exactly in LOADING,
a join window exactly in JOINING, and empty blocks outside RUNNING; and every step keeps the memory read: what has
been shifted in is what the attached memory gave so far. -/
def Obligations.StepsKeepLifeConduct : Prop :=
  ∀ s t : State, step s = .next t → (LifeConduct s → LifeConduct t) ∧ (ReadSound s → ReadSound t)

/-- Every step keeps the cue queue: at most 32 entries, in order of fire time, one tick to the horizon ahead of
bus time, no two with one message key. -/
def Obligations.StepsKeepTheQueue : Prop :=
  ∀ s t : State, QueueSound s → step s = .next t → QueueSound t

/-- Every step keeps the transmit list with its owners. -/
def Obligations.StepsKeepTheRequests : Prop :=
  ∀ s t : State, RequestsSound s → step s = .next t → RequestsSound t

/-- Every step keeps the channel contexts as R71 lays them out. -/
def Obligations.StepsKeepTheChannels : Prop :=
  ∀ s t : State, ChannelsSound s → step s = .next t → ChannelsSound t

/-- Every step keeps rounds and carrier episodes alternating and, with them, the peer table and the last sender
within the ring. -/
def Obligations.StepsKeepRoundsAndPeers : Prop :=
  ∀ s t : State, RoundsSound s → step s = .next t → RoundsSound t ∧ (PeersSound s → PeersSound t)

/-- Every step keeps the staging slots, and keeps disabled channels at rest. -/
def Obligations.StepsKeepStagingAndDisabledChannels : Prop :=
  ∀ s t : State, step s = .next t →
    (StagingSound s → StagingSound t) ∧ (DisabledChannelsRest s → DisabledChannelsRest t)

/-- Bus time only moves forward: a command leaves it, adds one to 2^39 less one, or, as a reset or a RESTART, sets
it to 0; a tick with no command waiting leaves it or adds one. -/
def Obligations.BusTimeOnlyMovesForward : Prop :=
  (∀ (c : Instr) (s t : State), exec c s = .next t →
    t.timebase.busTime = s.timebase.busTime ∨
    (0 < signedDiff t.timebase.busTime s.timebase.busTime) ∨
    (t.timebase.busTime = 0 ∧ (c = .reset ∨ ∃ f, c = .restart f))) ∧
  (∀ s t : State, s.pending = [] → step s = .next t →
    t.timebase.busTime = s.timebase.busTime ∨ signedDiff t.timebase.busTime s.timebase.busTime = 1)

/-- The fault flags are sticky: only RESET, RESTART and CLEAR clear one, a RESTART none but ID_CLASH, and a CLEAR
none but those it names. -/
def Obligations.FlagsAreSticky : Prop :=
  ∀ (c : Instr) (s t : State) (x : Flag), exec c s = .next t → s.flag x = true →
    t.flag x = true ∨ c = .reset ∨ ((∃ f, c = .restart f) ∧ x = .idClash) ∨
      ∃ f, c = .clear f ∧ ((field16 f.payload 0).setWidth 13 &&& flagBit x) ≠ 0

end
end

