-- ==== Sys2Proof/Laws/State.lean ====
section
/-! SUPPORT. One lemma per field per update of the state, each true by definition. -/

namespace Sys2Proof.Machine

/-! ### withPending -/

@[simp] theorem State.withPending_pending (s : State) (v : List Instr) : (s.withPending v).pending = v := rfl
@[simp] theorem State.withPending_ext (s : State) (v : List Instr) : (s.withPending v).ext = s.ext := rfl
@[simp] theorem State.withPending_choice (s : State) (v : List Instr) : (s.withPending v).choice = s.choice := rfl
@[simp] theorem State.withPending_scopeLeft (s : State) (v : List Instr) : (s.withPending v).scopeLeft = s.scopeLeft := rfl
@[simp] theorem State.withPending_loader (s : State) (v : List Instr) : (s.withPending v).loader = s.loader := rfl
@[simp] theorem State.withPending_cfg (s : State) (v : List Instr) : (s.withPending v).cfg = s.cfg := rfl
@[simp] theorem State.withPending_timebase (s : State) (v : List Instr) : (s.withPending v).timebase = s.timebase := rfl
@[simp] theorem State.withPending_line (s : State) (v : List Instr) : (s.withPending v).line = s.line := rfl
@[simp] theorem State.withPending_peers (s : State) (v : List Instr) : (s.withPending v).peers = s.peers := rfl
@[simp] theorem State.withPending_inputs (s : State) (v : List Instr) : (s.withPending v).inputs = s.inputs := rfl
@[simp] theorem State.withPending_bindings (s : State) (v : List Instr) : (s.withPending v).bindings = s.bindings := rfl
@[simp] theorem State.withPending_queue (s : State) (v : List Instr) : (s.withPending v).queue = s.queue := rfl
@[simp] theorem State.withPending_staging (s : State) (v : List Instr) : (s.withPending v).staging = s.staging := rfl
@[simp] theorem State.withPending_channels (s : State) (v : List Instr) : (s.withPending v).channels = s.channels := rfl
@[simp] theorem State.withPending_faults (s : State) (v : List Instr) : (s.withPending v).faults = s.faults := rfl

/-! ### withExt -/

@[simp] theorem State.withExt_pending (s : State) (v : External) : (s.withExt v).pending = s.pending := rfl
@[simp] theorem State.withExt_ext (s : State) (v : External) : (s.withExt v).ext = v := rfl
@[simp] theorem State.withExt_choice (s : State) (v : External) : (s.withExt v).choice = s.choice := rfl
@[simp] theorem State.withExt_scopeLeft (s : State) (v : External) : (s.withExt v).scopeLeft = s.scopeLeft := rfl
@[simp] theorem State.withExt_loader (s : State) (v : External) : (s.withExt v).loader = s.loader := rfl
@[simp] theorem State.withExt_cfg (s : State) (v : External) : (s.withExt v).cfg = s.cfg := rfl
@[simp] theorem State.withExt_timebase (s : State) (v : External) : (s.withExt v).timebase = s.timebase := rfl
@[simp] theorem State.withExt_line (s : State) (v : External) : (s.withExt v).line = s.line := rfl
@[simp] theorem State.withExt_peers (s : State) (v : External) : (s.withExt v).peers = s.peers := rfl
@[simp] theorem State.withExt_inputs (s : State) (v : External) : (s.withExt v).inputs = s.inputs := rfl
@[simp] theorem State.withExt_bindings (s : State) (v : External) : (s.withExt v).bindings = s.bindings := rfl
@[simp] theorem State.withExt_queue (s : State) (v : External) : (s.withExt v).queue = s.queue := rfl
@[simp] theorem State.withExt_staging (s : State) (v : External) : (s.withExt v).staging = s.staging := rfl
@[simp] theorem State.withExt_channels (s : State) (v : External) : (s.withExt v).channels = s.channels := rfl
@[simp] theorem State.withExt_faults (s : State) (v : External) : (s.withExt v).faults = s.faults := rfl

/-! ### withChoice -/

@[simp] theorem State.withChoice_pending (s : State) (v : Nat) : (s.withChoice v).pending = s.pending := rfl
@[simp] theorem State.withChoice_ext (s : State) (v : Nat) : (s.withChoice v).ext = s.ext := rfl
@[simp] theorem State.withChoice_choice (s : State) (v : Nat) : (s.withChoice v).choice = v := rfl
@[simp] theorem State.withChoice_scopeLeft (s : State) (v : Nat) : (s.withChoice v).scopeLeft = s.scopeLeft := rfl
@[simp] theorem State.withChoice_loader (s : State) (v : Nat) : (s.withChoice v).loader = s.loader := rfl
@[simp] theorem State.withChoice_cfg (s : State) (v : Nat) : (s.withChoice v).cfg = s.cfg := rfl
@[simp] theorem State.withChoice_timebase (s : State) (v : Nat) : (s.withChoice v).timebase = s.timebase := rfl
@[simp] theorem State.withChoice_line (s : State) (v : Nat) : (s.withChoice v).line = s.line := rfl
@[simp] theorem State.withChoice_peers (s : State) (v : Nat) : (s.withChoice v).peers = s.peers := rfl
@[simp] theorem State.withChoice_inputs (s : State) (v : Nat) : (s.withChoice v).inputs = s.inputs := rfl
@[simp] theorem State.withChoice_bindings (s : State) (v : Nat) : (s.withChoice v).bindings = s.bindings := rfl
@[simp] theorem State.withChoice_queue (s : State) (v : Nat) : (s.withChoice v).queue = s.queue := rfl
@[simp] theorem State.withChoice_staging (s : State) (v : Nat) : (s.withChoice v).staging = s.staging := rfl
@[simp] theorem State.withChoice_channels (s : State) (v : Nat) : (s.withChoice v).channels = s.channels := rfl
@[simp] theorem State.withChoice_faults (s : State) (v : Nat) : (s.withChoice v).faults = s.faults := rfl

/-! ### withScopeLeft -/

@[simp] theorem State.withScopeLeft_pending (s : State) (v : Option ScopeLeft) : (s.withScopeLeft v).pending = s.pending := rfl
@[simp] theorem State.withScopeLeft_ext (s : State) (v : Option ScopeLeft) : (s.withScopeLeft v).ext = s.ext := rfl
@[simp] theorem State.withScopeLeft_choice (s : State) (v : Option ScopeLeft) : (s.withScopeLeft v).choice = s.choice := rfl
@[simp] theorem State.withScopeLeft_scopeLeft (s : State) (v : Option ScopeLeft) : (s.withScopeLeft v).scopeLeft = v := rfl
@[simp] theorem State.withScopeLeft_loader (s : State) (v : Option ScopeLeft) : (s.withScopeLeft v).loader = s.loader := rfl
@[simp] theorem State.withScopeLeft_cfg (s : State) (v : Option ScopeLeft) : (s.withScopeLeft v).cfg = s.cfg := rfl
@[simp] theorem State.withScopeLeft_timebase (s : State) (v : Option ScopeLeft) : (s.withScopeLeft v).timebase = s.timebase := rfl
@[simp] theorem State.withScopeLeft_line (s : State) (v : Option ScopeLeft) : (s.withScopeLeft v).line = s.line := rfl
@[simp] theorem State.withScopeLeft_peers (s : State) (v : Option ScopeLeft) : (s.withScopeLeft v).peers = s.peers := rfl
@[simp] theorem State.withScopeLeft_inputs (s : State) (v : Option ScopeLeft) : (s.withScopeLeft v).inputs = s.inputs := rfl
@[simp] theorem State.withScopeLeft_bindings (s : State) (v : Option ScopeLeft) : (s.withScopeLeft v).bindings = s.bindings := rfl
@[simp] theorem State.withScopeLeft_queue (s : State) (v : Option ScopeLeft) : (s.withScopeLeft v).queue = s.queue := rfl
@[simp] theorem State.withScopeLeft_staging (s : State) (v : Option ScopeLeft) : (s.withScopeLeft v).staging = s.staging := rfl
@[simp] theorem State.withScopeLeft_channels (s : State) (v : Option ScopeLeft) : (s.withScopeLeft v).channels = s.channels := rfl
@[simp] theorem State.withScopeLeft_faults (s : State) (v : Option ScopeLeft) : (s.withScopeLeft v).faults = s.faults := rfl

/-! ### withLoader -/

@[simp] theorem State.withLoader_pending (s : State) (v : Loader) : (s.withLoader v).pending = s.pending := rfl
@[simp] theorem State.withLoader_ext (s : State) (v : Loader) : (s.withLoader v).ext = s.ext := rfl
@[simp] theorem State.withLoader_choice (s : State) (v : Loader) : (s.withLoader v).choice = s.choice := rfl
@[simp] theorem State.withLoader_scopeLeft (s : State) (v : Loader) : (s.withLoader v).scopeLeft = s.scopeLeft := rfl
@[simp] theorem State.withLoader_loader (s : State) (v : Loader) : (s.withLoader v).loader = v := rfl
@[simp] theorem State.withLoader_cfg (s : State) (v : Loader) : (s.withLoader v).cfg = s.cfg := rfl
@[simp] theorem State.withLoader_timebase (s : State) (v : Loader) : (s.withLoader v).timebase = s.timebase := rfl
@[simp] theorem State.withLoader_line (s : State) (v : Loader) : (s.withLoader v).line = s.line := rfl
@[simp] theorem State.withLoader_peers (s : State) (v : Loader) : (s.withLoader v).peers = s.peers := rfl
@[simp] theorem State.withLoader_inputs (s : State) (v : Loader) : (s.withLoader v).inputs = s.inputs := rfl
@[simp] theorem State.withLoader_bindings (s : State) (v : Loader) : (s.withLoader v).bindings = s.bindings := rfl
@[simp] theorem State.withLoader_queue (s : State) (v : Loader) : (s.withLoader v).queue = s.queue := rfl
@[simp] theorem State.withLoader_staging (s : State) (v : Loader) : (s.withLoader v).staging = s.staging := rfl
@[simp] theorem State.withLoader_channels (s : State) (v : Loader) : (s.withLoader v).channels = s.channels := rfl
@[simp] theorem State.withLoader_faults (s : State) (v : Loader) : (s.withLoader v).faults = s.faults := rfl

/-! ### withCfg -/

@[simp] theorem State.withCfg_pending (s : State) (v : Params) : (s.withCfg v).pending = s.pending := rfl
@[simp] theorem State.withCfg_ext (s : State) (v : Params) : (s.withCfg v).ext = s.ext := rfl
@[simp] theorem State.withCfg_choice (s : State) (v : Params) : (s.withCfg v).choice = s.choice := rfl
@[simp] theorem State.withCfg_scopeLeft (s : State) (v : Params) : (s.withCfg v).scopeLeft = s.scopeLeft := rfl
@[simp] theorem State.withCfg_loader (s : State) (v : Params) : (s.withCfg v).loader = s.loader := rfl
@[simp] theorem State.withCfg_cfg (s : State) (v : Params) : (s.withCfg v).cfg = v := rfl
@[simp] theorem State.withCfg_timebase (s : State) (v : Params) : (s.withCfg v).timebase = s.timebase := rfl
@[simp] theorem State.withCfg_line (s : State) (v : Params) : (s.withCfg v).line = s.line := rfl
@[simp] theorem State.withCfg_peers (s : State) (v : Params) : (s.withCfg v).peers = s.peers := rfl
@[simp] theorem State.withCfg_inputs (s : State) (v : Params) : (s.withCfg v).inputs = s.inputs := rfl
@[simp] theorem State.withCfg_bindings (s : State) (v : Params) : (s.withCfg v).bindings = s.bindings := rfl
@[simp] theorem State.withCfg_queue (s : State) (v : Params) : (s.withCfg v).queue = s.queue := rfl
@[simp] theorem State.withCfg_staging (s : State) (v : Params) : (s.withCfg v).staging = s.staging := rfl
@[simp] theorem State.withCfg_channels (s : State) (v : Params) : (s.withCfg v).channels = s.channels := rfl
@[simp] theorem State.withCfg_faults (s : State) (v : Params) : (s.withCfg v).faults = s.faults := rfl

/-! ### withTimebase -/

@[simp] theorem State.withTimebase_pending (s : State) (v : Timebase) : (s.withTimebase v).pending = s.pending := rfl
@[simp] theorem State.withTimebase_ext (s : State) (v : Timebase) : (s.withTimebase v).ext = s.ext := rfl
@[simp] theorem State.withTimebase_choice (s : State) (v : Timebase) : (s.withTimebase v).choice = s.choice := rfl
@[simp] theorem State.withTimebase_scopeLeft (s : State) (v : Timebase) : (s.withTimebase v).scopeLeft = s.scopeLeft := rfl
@[simp] theorem State.withTimebase_loader (s : State) (v : Timebase) : (s.withTimebase v).loader = s.loader := rfl
@[simp] theorem State.withTimebase_cfg (s : State) (v : Timebase) : (s.withTimebase v).cfg = s.cfg := rfl
@[simp] theorem State.withTimebase_timebase (s : State) (v : Timebase) : (s.withTimebase v).timebase = v := rfl
@[simp] theorem State.withTimebase_line (s : State) (v : Timebase) : (s.withTimebase v).line = s.line := rfl
@[simp] theorem State.withTimebase_peers (s : State) (v : Timebase) : (s.withTimebase v).peers = s.peers := rfl
@[simp] theorem State.withTimebase_inputs (s : State) (v : Timebase) : (s.withTimebase v).inputs = s.inputs := rfl
@[simp] theorem State.withTimebase_bindings (s : State) (v : Timebase) : (s.withTimebase v).bindings = s.bindings := rfl
@[simp] theorem State.withTimebase_queue (s : State) (v : Timebase) : (s.withTimebase v).queue = s.queue := rfl
@[simp] theorem State.withTimebase_staging (s : State) (v : Timebase) : (s.withTimebase v).staging = s.staging := rfl
@[simp] theorem State.withTimebase_channels (s : State) (v : Timebase) : (s.withTimebase v).channels = s.channels := rfl
@[simp] theorem State.withTimebase_faults (s : State) (v : Timebase) : (s.withTimebase v).faults = s.faults := rfl

/-! ### withLine -/

@[simp] theorem State.withLine_pending (s : State) (v : Line) : (s.withLine v).pending = s.pending := rfl
@[simp] theorem State.withLine_ext (s : State) (v : Line) : (s.withLine v).ext = s.ext := rfl
@[simp] theorem State.withLine_choice (s : State) (v : Line) : (s.withLine v).choice = s.choice := rfl
@[simp] theorem State.withLine_scopeLeft (s : State) (v : Line) : (s.withLine v).scopeLeft = s.scopeLeft := rfl
@[simp] theorem State.withLine_loader (s : State) (v : Line) : (s.withLine v).loader = s.loader := rfl
@[simp] theorem State.withLine_cfg (s : State) (v : Line) : (s.withLine v).cfg = s.cfg := rfl
@[simp] theorem State.withLine_timebase (s : State) (v : Line) : (s.withLine v).timebase = s.timebase := rfl
@[simp] theorem State.withLine_line (s : State) (v : Line) : (s.withLine v).line = v := rfl
@[simp] theorem State.withLine_peers (s : State) (v : Line) : (s.withLine v).peers = s.peers := rfl
@[simp] theorem State.withLine_inputs (s : State) (v : Line) : (s.withLine v).inputs = s.inputs := rfl
@[simp] theorem State.withLine_bindings (s : State) (v : Line) : (s.withLine v).bindings = s.bindings := rfl
@[simp] theorem State.withLine_queue (s : State) (v : Line) : (s.withLine v).queue = s.queue := rfl
@[simp] theorem State.withLine_staging (s : State) (v : Line) : (s.withLine v).staging = s.staging := rfl
@[simp] theorem State.withLine_channels (s : State) (v : Line) : (s.withLine v).channels = s.channels := rfl
@[simp] theorem State.withLine_faults (s : State) (v : Line) : (s.withLine v).faults = s.faults := rfl

/-! ### withPeers -/

@[simp] theorem State.withPeers_pending (s : State) (v : Vector Peer 32) : (s.withPeers v).pending = s.pending := rfl
@[simp] theorem State.withPeers_ext (s : State) (v : Vector Peer 32) : (s.withPeers v).ext = s.ext := rfl
@[simp] theorem State.withPeers_choice (s : State) (v : Vector Peer 32) : (s.withPeers v).choice = s.choice := rfl
@[simp] theorem State.withPeers_scopeLeft (s : State) (v : Vector Peer 32) : (s.withPeers v).scopeLeft = s.scopeLeft := rfl
@[simp] theorem State.withPeers_loader (s : State) (v : Vector Peer 32) : (s.withPeers v).loader = s.loader := rfl
@[simp] theorem State.withPeers_cfg (s : State) (v : Vector Peer 32) : (s.withPeers v).cfg = s.cfg := rfl
@[simp] theorem State.withPeers_timebase (s : State) (v : Vector Peer 32) : (s.withPeers v).timebase = s.timebase := rfl
@[simp] theorem State.withPeers_line (s : State) (v : Vector Peer 32) : (s.withPeers v).line = s.line := rfl
@[simp] theorem State.withPeers_peers (s : State) (v : Vector Peer 32) : (s.withPeers v).peers = v := rfl
@[simp] theorem State.withPeers_inputs (s : State) (v : Vector Peer 32) : (s.withPeers v).inputs = s.inputs := rfl
@[simp] theorem State.withPeers_bindings (s : State) (v : Vector Peer 32) : (s.withPeers v).bindings = s.bindings := rfl
@[simp] theorem State.withPeers_queue (s : State) (v : Vector Peer 32) : (s.withPeers v).queue = s.queue := rfl
@[simp] theorem State.withPeers_staging (s : State) (v : Vector Peer 32) : (s.withPeers v).staging = s.staging := rfl
@[simp] theorem State.withPeers_channels (s : State) (v : Vector Peer 32) : (s.withPeers v).channels = s.channels := rfl
@[simp] theorem State.withPeers_faults (s : State) (v : Vector Peer 32) : (s.withPeers v).faults = s.faults := rfl

/-! ### withInputs -/

@[simp] theorem State.withInputs_pending (s : State) (v : Vector Input 4) : (s.withInputs v).pending = s.pending := rfl
@[simp] theorem State.withInputs_ext (s : State) (v : Vector Input 4) : (s.withInputs v).ext = s.ext := rfl
@[simp] theorem State.withInputs_choice (s : State) (v : Vector Input 4) : (s.withInputs v).choice = s.choice := rfl
@[simp] theorem State.withInputs_scopeLeft (s : State) (v : Vector Input 4) : (s.withInputs v).scopeLeft = s.scopeLeft := rfl
@[simp] theorem State.withInputs_loader (s : State) (v : Vector Input 4) : (s.withInputs v).loader = s.loader := rfl
@[simp] theorem State.withInputs_cfg (s : State) (v : Vector Input 4) : (s.withInputs v).cfg = s.cfg := rfl
@[simp] theorem State.withInputs_timebase (s : State) (v : Vector Input 4) : (s.withInputs v).timebase = s.timebase := rfl
@[simp] theorem State.withInputs_line (s : State) (v : Vector Input 4) : (s.withInputs v).line = s.line := rfl
@[simp] theorem State.withInputs_peers (s : State) (v : Vector Input 4) : (s.withInputs v).peers = s.peers := rfl
@[simp] theorem State.withInputs_inputs (s : State) (v : Vector Input 4) : (s.withInputs v).inputs = v := rfl
@[simp] theorem State.withInputs_bindings (s : State) (v : Vector Input 4) : (s.withInputs v).bindings = s.bindings := rfl
@[simp] theorem State.withInputs_queue (s : State) (v : Vector Input 4) : (s.withInputs v).queue = s.queue := rfl
@[simp] theorem State.withInputs_staging (s : State) (v : Vector Input 4) : (s.withInputs v).staging = s.staging := rfl
@[simp] theorem State.withInputs_channels (s : State) (v : Vector Input 4) : (s.withInputs v).channels = s.channels := rfl
@[simp] theorem State.withInputs_faults (s : State) (v : Vector Input 4) : (s.withInputs v).faults = s.faults := rfl

/-! ### withBindings -/

@[simp] theorem State.withBindings_pending (s : State) (v : Vector (Option Binding) 16) : (s.withBindings v).pending = s.pending := rfl
@[simp] theorem State.withBindings_ext (s : State) (v : Vector (Option Binding) 16) : (s.withBindings v).ext = s.ext := rfl
@[simp] theorem State.withBindings_choice (s : State) (v : Vector (Option Binding) 16) : (s.withBindings v).choice = s.choice := rfl
@[simp] theorem State.withBindings_scopeLeft (s : State) (v : Vector (Option Binding) 16) : (s.withBindings v).scopeLeft = s.scopeLeft := rfl
@[simp] theorem State.withBindings_loader (s : State) (v : Vector (Option Binding) 16) : (s.withBindings v).loader = s.loader := rfl
@[simp] theorem State.withBindings_cfg (s : State) (v : Vector (Option Binding) 16) : (s.withBindings v).cfg = s.cfg := rfl
@[simp] theorem State.withBindings_timebase (s : State) (v : Vector (Option Binding) 16) : (s.withBindings v).timebase = s.timebase := rfl
@[simp] theorem State.withBindings_line (s : State) (v : Vector (Option Binding) 16) : (s.withBindings v).line = s.line := rfl
@[simp] theorem State.withBindings_peers (s : State) (v : Vector (Option Binding) 16) : (s.withBindings v).peers = s.peers := rfl
@[simp] theorem State.withBindings_inputs (s : State) (v : Vector (Option Binding) 16) : (s.withBindings v).inputs = s.inputs := rfl
@[simp] theorem State.withBindings_bindings (s : State) (v : Vector (Option Binding) 16) : (s.withBindings v).bindings = v := rfl
@[simp] theorem State.withBindings_queue (s : State) (v : Vector (Option Binding) 16) : (s.withBindings v).queue = s.queue := rfl
@[simp] theorem State.withBindings_staging (s : State) (v : Vector (Option Binding) 16) : (s.withBindings v).staging = s.staging := rfl
@[simp] theorem State.withBindings_channels (s : State) (v : Vector (Option Binding) 16) : (s.withBindings v).channels = s.channels := rfl
@[simp] theorem State.withBindings_faults (s : State) (v : Vector (Option Binding) 16) : (s.withBindings v).faults = s.faults := rfl

/-! ### withQueue -/

@[simp] theorem State.withQueue_pending (s : State) (v : List CueEntry) : (s.withQueue v).pending = s.pending := rfl
@[simp] theorem State.withQueue_ext (s : State) (v : List CueEntry) : (s.withQueue v).ext = s.ext := rfl
@[simp] theorem State.withQueue_choice (s : State) (v : List CueEntry) : (s.withQueue v).choice = s.choice := rfl
@[simp] theorem State.withQueue_scopeLeft (s : State) (v : List CueEntry) : (s.withQueue v).scopeLeft = s.scopeLeft := rfl
@[simp] theorem State.withQueue_loader (s : State) (v : List CueEntry) : (s.withQueue v).loader = s.loader := rfl
@[simp] theorem State.withQueue_cfg (s : State) (v : List CueEntry) : (s.withQueue v).cfg = s.cfg := rfl
@[simp] theorem State.withQueue_timebase (s : State) (v : List CueEntry) : (s.withQueue v).timebase = s.timebase := rfl
@[simp] theorem State.withQueue_line (s : State) (v : List CueEntry) : (s.withQueue v).line = s.line := rfl
@[simp] theorem State.withQueue_peers (s : State) (v : List CueEntry) : (s.withQueue v).peers = s.peers := rfl
@[simp] theorem State.withQueue_inputs (s : State) (v : List CueEntry) : (s.withQueue v).inputs = s.inputs := rfl
@[simp] theorem State.withQueue_bindings (s : State) (v : List CueEntry) : (s.withQueue v).bindings = s.bindings := rfl
@[simp] theorem State.withQueue_queue (s : State) (v : List CueEntry) : (s.withQueue v).queue = v := rfl
@[simp] theorem State.withQueue_staging (s : State) (v : List CueEntry) : (s.withQueue v).staging = s.staging := rfl
@[simp] theorem State.withQueue_channels (s : State) (v : List CueEntry) : (s.withQueue v).channels = s.channels := rfl
@[simp] theorem State.withQueue_faults (s : State) (v : List CueEntry) : (s.withQueue v).faults = s.faults := rfl

/-! ### withStaging -/

@[simp] theorem State.withStaging_pending (s : State) (v : Vector (Option Staged) 8) : (s.withStaging v).pending = s.pending := rfl
@[simp] theorem State.withStaging_ext (s : State) (v : Vector (Option Staged) 8) : (s.withStaging v).ext = s.ext := rfl
@[simp] theorem State.withStaging_choice (s : State) (v : Vector (Option Staged) 8) : (s.withStaging v).choice = s.choice := rfl
@[simp] theorem State.withStaging_scopeLeft (s : State) (v : Vector (Option Staged) 8) : (s.withStaging v).scopeLeft = s.scopeLeft := rfl
@[simp] theorem State.withStaging_loader (s : State) (v : Vector (Option Staged) 8) : (s.withStaging v).loader = s.loader := rfl
@[simp] theorem State.withStaging_cfg (s : State) (v : Vector (Option Staged) 8) : (s.withStaging v).cfg = s.cfg := rfl
@[simp] theorem State.withStaging_timebase (s : State) (v : Vector (Option Staged) 8) : (s.withStaging v).timebase = s.timebase := rfl
@[simp] theorem State.withStaging_line (s : State) (v : Vector (Option Staged) 8) : (s.withStaging v).line = s.line := rfl
@[simp] theorem State.withStaging_peers (s : State) (v : Vector (Option Staged) 8) : (s.withStaging v).peers = s.peers := rfl
@[simp] theorem State.withStaging_inputs (s : State) (v : Vector (Option Staged) 8) : (s.withStaging v).inputs = s.inputs := rfl
@[simp] theorem State.withStaging_bindings (s : State) (v : Vector (Option Staged) 8) : (s.withStaging v).bindings = s.bindings := rfl
@[simp] theorem State.withStaging_queue (s : State) (v : Vector (Option Staged) 8) : (s.withStaging v).queue = s.queue := rfl
@[simp] theorem State.withStaging_staging (s : State) (v : Vector (Option Staged) 8) : (s.withStaging v).staging = v := rfl
@[simp] theorem State.withStaging_channels (s : State) (v : Vector (Option Staged) 8) : (s.withStaging v).channels = s.channels := rfl
@[simp] theorem State.withStaging_faults (s : State) (v : Vector (Option Staged) 8) : (s.withStaging v).faults = s.faults := rfl

/-! ### withChannels -/

@[simp] theorem State.withChannels_pending (s : State) (v : Vector Channel 8) : (s.withChannels v).pending = s.pending := rfl
@[simp] theorem State.withChannels_ext (s : State) (v : Vector Channel 8) : (s.withChannels v).ext = s.ext := rfl
@[simp] theorem State.withChannels_choice (s : State) (v : Vector Channel 8) : (s.withChannels v).choice = s.choice := rfl
@[simp] theorem State.withChannels_scopeLeft (s : State) (v : Vector Channel 8) : (s.withChannels v).scopeLeft = s.scopeLeft := rfl
@[simp] theorem State.withChannels_loader (s : State) (v : Vector Channel 8) : (s.withChannels v).loader = s.loader := rfl
@[simp] theorem State.withChannels_cfg (s : State) (v : Vector Channel 8) : (s.withChannels v).cfg = s.cfg := rfl
@[simp] theorem State.withChannels_timebase (s : State) (v : Vector Channel 8) : (s.withChannels v).timebase = s.timebase := rfl
@[simp] theorem State.withChannels_line (s : State) (v : Vector Channel 8) : (s.withChannels v).line = s.line := rfl
@[simp] theorem State.withChannels_peers (s : State) (v : Vector Channel 8) : (s.withChannels v).peers = s.peers := rfl
@[simp] theorem State.withChannels_inputs (s : State) (v : Vector Channel 8) : (s.withChannels v).inputs = s.inputs := rfl
@[simp] theorem State.withChannels_bindings (s : State) (v : Vector Channel 8) : (s.withChannels v).bindings = s.bindings := rfl
@[simp] theorem State.withChannels_queue (s : State) (v : Vector Channel 8) : (s.withChannels v).queue = s.queue := rfl
@[simp] theorem State.withChannels_staging (s : State) (v : Vector Channel 8) : (s.withChannels v).staging = s.staging := rfl
@[simp] theorem State.withChannels_channels (s : State) (v : Vector Channel 8) : (s.withChannels v).channels = v := rfl
@[simp] theorem State.withChannels_faults (s : State) (v : Vector Channel 8) : (s.withChannels v).faults = s.faults := rfl

/-! ### withFaults -/

@[simp] theorem State.withFaults_pending (s : State) (v : FaultUnit) : (s.withFaults v).pending = s.pending := rfl
@[simp] theorem State.withFaults_ext (s : State) (v : FaultUnit) : (s.withFaults v).ext = s.ext := rfl
@[simp] theorem State.withFaults_choice (s : State) (v : FaultUnit) : (s.withFaults v).choice = s.choice := rfl
@[simp] theorem State.withFaults_scopeLeft (s : State) (v : FaultUnit) : (s.withFaults v).scopeLeft = s.scopeLeft := rfl
@[simp] theorem State.withFaults_loader (s : State) (v : FaultUnit) : (s.withFaults v).loader = s.loader := rfl
@[simp] theorem State.withFaults_cfg (s : State) (v : FaultUnit) : (s.withFaults v).cfg = s.cfg := rfl
@[simp] theorem State.withFaults_timebase (s : State) (v : FaultUnit) : (s.withFaults v).timebase = s.timebase := rfl
@[simp] theorem State.withFaults_line (s : State) (v : FaultUnit) : (s.withFaults v).line = s.line := rfl
@[simp] theorem State.withFaults_peers (s : State) (v : FaultUnit) : (s.withFaults v).peers = s.peers := rfl
@[simp] theorem State.withFaults_inputs (s : State) (v : FaultUnit) : (s.withFaults v).inputs = s.inputs := rfl
@[simp] theorem State.withFaults_bindings (s : State) (v : FaultUnit) : (s.withFaults v).bindings = s.bindings := rfl
@[simp] theorem State.withFaults_queue (s : State) (v : FaultUnit) : (s.withFaults v).queue = s.queue := rfl
@[simp] theorem State.withFaults_staging (s : State) (v : FaultUnit) : (s.withFaults v).staging = s.staging := rfl
@[simp] theorem State.withFaults_channels (s : State) (v : FaultUnit) : (s.withFaults v).channels = s.channels := rfl
@[simp] theorem State.withFaults_faults (s : State) (v : FaultUnit) : (s.withFaults v).faults = v := rfl

end Sys2Proof.Machine
end

