-- ==== Sys2Proof/Laws/Ops.lean ====
section
/-! SUPPORT. What the operations of Machine/Ops.lean do: families, the transmit list, the attached memory. -/

namespace Sys2Proof.Machine

/-! ### Families -/

/-- A member of a mapped family is the image of the member. -/
@[simp] theorem mapFamily_getElem {α β : Type} {n : Nat} (f : Fin n → α → β) (v : Vector α n) (i : Fin n) :
    (mapFamily f v)[i] = f i v[i] := by
  simp [mapFamily]

/-! ### The transmit list -/

/-- A request that is offered either leaves the state alone or joins at the tail, and joins exactly at a
RUNNING station that is not mute and whose list lacks it. -/
theorem State.join_cases (r : Request) (s : State) :
    (s.isRunning = true ∧ s.mute = false ∧ r ∉ s.line.txList ∧
      s.join r = s.withLine { s.line with txList := s.line.txList ++ [r] }) ∨
    (¬ (s.isRunning = true ∧ s.mute = false ∧ r ∉ s.line.txList) ∧ s.join r = s) := by
  by_cases h : s.isRunning = true ∧ s.mute = false ∧ r ∉ s.line.txList
  · left
    refine ⟨h.1, h.2.1, h.2.2, ?_⟩
    simp [State.join, h.1, h.2.1, h.2.2]
  · right
    refine ⟨h, ?_⟩
    unfold State.join
    split
    · rename_i hc
      simp at hc
      exact absurd ⟨hc.1.1, hc.1.2, hc.2⟩ h
    · rfl

/-- An offered request changes at most the transmit list. -/
theorem State.join_footprint (r : Request) (s : State) :
    ∃ l, s.join r = s.withLine { s.line with txList := l } := by
  rcases s.join_cases r with h | h
  · exact ⟨_, h.2.2.2⟩
  · exact ⟨s.line.txList, h.2⟩

/-! ### The attached memory -/

/-- A canonical memory from a bound on is canonical from every lower bound on. -/
theorem memoryFormFrom_mono {lo hi : Nat} (h : lo ≤ hi) (m : List Host.Cell)
    (hm : memoryFormFrom hi m = true) : memoryFormFrom lo m = true := by
  cases m with
  | nil => rfl
  | cons c rest =>
    simp only [memoryFormFrom, Bool.and_eq_true, decide_eq_true_eq] at hm ⊢
    exact ⟨⟨le_trans h hm.1.1, hm.1.2⟩, hm.2⟩

/-- Bytes written down from an address on are in canonical form from it on. -/
theorem memoryOf_form (l : List Byte) (a : Nat) : memoryFormFrom a (memoryOf a l) = true := by
  induction l generalizing a with
  | nil => rfl
  | cons b rest ih =>
    unfold memoryOf
    split
    · exact memoryFormFrom_mono (Nat.le_succ a) _ (ih (a + 1))
    · rename_i hb
      simp only [memoryFormFrom, ih (a + 1), Bool.and_true, Bool.and_eq_true, decide_eq_true_eq]
      exact ⟨le_refl a, hb⟩

/-- Bytes written down are in canonical form. -/
theorem memoryOf_wf (a : Nat) (l : List Byte) : Memory.wf (memoryOf a l) = true :=
  memoryFormFrom_mono (Nat.zero_le a) _ (memoryOf_form l a)

/-- An address below every listed one reads as ones. -/
theorem memoryByte_below {lo a : Nat} (m : List Host.Cell) (hm : memoryFormFrom lo m = true) (h : a < lo) :
    memoryByte m a = Config.absentByte := by
  induction m generalizing lo with
  | nil => rfl
  | cons c rest ih =>
    simp only [memoryFormFrom, Bool.and_eq_true, decide_eq_true_eq] at hm
    have hne : c.1 ≠ a := by omega
    simp only [memoryByte, hne, if_false]
    exact ih hm.2 (by omega)

/-- Bytes written down read back at their addresses. -/
theorem memoryByte_memoryOf (l : List Byte) (a i : Nat) (hi : i < l.length) :
    memoryByte (memoryOf a l) (a + i) = l[i] := by
  induction l generalizing a i with
  | nil => simp at hi
  | cons b rest ih =>
    cases i with
    | zero =>
      unfold memoryOf
      split
      · rename_i hb
        rw [memoryByte_below _ (memoryOf_form rest (a + 1)) (by omega)]
        simp [hb]
      · simp [memoryByte]
    | succ j =>
      have hj : j < rest.length := by simpa using hi
      have key : memoryByte (memoryOf (a + 1) rest) (a + (j + 1)) = rest[j] := by
        have := ih (a + 1) j hj
        rwa [show a + 1 + j = a + (j + 1) by omega] at this
      unfold memoryOf
      split
      · simpa using key
      · have hne : a ≠ a + (j + 1) := by omega
        simp only [memoryByte, hne, if_false]
        simpa using key

end Sys2Proof.Machine
end

