-- ==== Sys2Proof/Laws/Footprints.lean ====
section
/-! SUPPORT. The footprint of each shared operation: the fields it can change, all others kept. -/

namespace Sys2Proof.Machine

/-! ### Flags -/

/-- Setting a flag changes the fault unit alone. -/
theorem State.setFlag_footprint (f : Flag) (s : State) : ∃ u, s.setFlag f = s.withFaults u := ⟨_, rfl⟩

/-- Setting a flag on a cause changes the fault unit alone. -/
theorem State.setFlagIf_footprint (b : Bool) (f : Flag) (s : State) :
    ∃ u, s.setFlagIf b f = s.withFaults u := by
  cases b
  · exact ⟨s.faults, rfl⟩
  · exact ⟨_, rfl⟩

/-- A rejection changes the fault unit alone. -/
theorem State.reject_footprint (r : RejectReason) (s : State) : ∃ u, s.reject r = s.withFaults u := ⟨_, rfl⟩

/-! ### The cue queue -/

/-- A delivery changes the channels alone. -/
theorem State.deliver_footprint (c : ChannelId) (p : Program) (late : Bool) (s : State) :
    ∃ v, s.deliver c p late = s.withChannels v := ⟨_, rfl⟩

/-- Deliveries change the channels alone. -/
theorem State.deliverAll_footprint (fs : List Firing) (s : State) :
    ∃ v, fs.foldl State.deliverNow s = s.withChannels v := by
  induction fs generalizing s with
  | nil => exact ⟨s.channels, rfl⟩
  | cons f rest ih =>
    obtain ⟨v, hv⟩ := ih (s.deliverNow f)
    refine ⟨v, ?_⟩
    rw [List.foldl_cons, hv]
    rfl

/-- The delivery of an entry changes the channels and the fault unit at most. -/
theorem State.deliverEntry_footprint (late : Bool) (s : State) (e : CueEntry) :
    ∃ v u, s.deliverEntry late e = (s.withChannels v).withFaults u := by
  unfold State.deliverEntry
  split
  · exact ⟨(s.deliver e.content.channel e.content.program late).channels, s.faults, rfl⟩
  · exact ⟨s.channels, _, rfl⟩

/-- The delivery of entries, each late or not, changes the channels and the fault unit at most. -/
theorem State.deliverEntries_footprint (late : CueEntry → Bool) (es : List CueEntry) (s : State) :
    ∃ v u, es.foldl (fun t e => t.deliverEntry (late e) e) s = (s.withChannels v).withFaults u := by
  induction es generalizing s with
  | nil => exact ⟨s.channels, s.faults, rfl⟩
  | cons e rest ih =>
    obtain ⟨v₁, u₁, h₁⟩ := s.deliverEntry_footprint (late e) e
    obtain ⟨v₂, u₂, h₂⟩ := ih (s.deliverEntry (late e) e)
    refine ⟨v₂, u₂, ?_⟩
    rw [List.foldl_cons, h₂, h₁]
    rfl

/-- An offer changes the queue, the channels and the fault unit at most. -/
theorem State.offer_footprint (fs : List Firing) (s : State) :
    ∃ q v u, s.offer fs = ((s.withQueue q).withChannels v).withFaults u := by
  unfold State.offer
  split
  · exact ⟨s.queue, s.channels, _, rfl⟩
  · split
    · exact ⟨s.queue, s.channels, _, rfl⟩
    · unfold State.acceptOffer
      obtain ⟨v, hv⟩ := State.deliverAll_footprint (s.immediates fs)
        (s.withQueue (insertAll (s.futures fs) (s.queue.filter fun e => !replacedBy fs e)))
      obtain ⟨u, hu⟩ := State.setFlagIf_footprint
        (fs.any fun f => decide (s.timeClass f.fireTime = .late)) .lateFire
        (List.foldl State.deliverNow
          (s.withQueue (insertAll (s.futures fs) (s.queue.filter fun e => !replacedBy fs e)))
          (s.immediates fs))
      refine ⟨insertAll (s.futures fs) (s.queue.filter fun e => !replacedBy fs e), v, u, ?_⟩
      simp only [hu]
      rw [hv]

/-- A tick of bus time changes bus time, the queue, the channels and the fault unit at most. -/
theorem State.busTick_footprint (s : State) :
    ∃ v u, s.busTick =
      (((s.withTimebase { s.timebase with busTime := s.timebase.busTime + 1 }).withQueue
        (s.queue.filter fun e => !decide (e.fireTime = s.timebase.busTime + 1))).withChannels v).withFaults u := by
  obtain ⟨v, u, h⟩ := State.deliverEntries_footprint (fun _ => false)
    (s.queue.filter fun e => decide (e.fireTime = s.timebase.busTime + 1))
    ((s.withTimebase { s.timebase with busTime := s.timebase.busTime + 1 }).withQueue
      (s.queue.filter fun e => !decide (e.fireTime = s.timebase.busTime + 1)))
  exact ⟨v, u, h⟩

/-- A step notice removes the reached entries and changes the channels and the fault unit at most. -/
theorem State.stepNotice_footprint (before after : BusTime) (s : State) :
    ∃ v u, s.stepNotice before after =
      ((s.withQueue (s.queue.filter fun e => !reachedBy before after e)).withChannels v).withFaults u := by
  obtain ⟨v, u, h⟩ := State.deliverEntries_footprint (passedBy after)
    (s.queue.filter (reachedBy before after))
    (s.withQueue (s.queue.filter fun e => !reachedBy before after e))
  obtain ⟨u', h'⟩ := State.setFlagIf_footprint ((s.queue.filter (reachedBy before after)).any (passedBy after))
    .lateFire (((s.withQueue (s.queue.filter fun e => !reachedBy before after e)).withChannels v).withFaults u)
  refine ⟨v, u', ?_⟩
  unfold State.stepNotice
  simp only [h, h']
  rfl

/-! ### The payloads -/

/-- A SCHEDULE changes the queue, the channels and the fault unit at most. -/
theorem State.takeSchedule_footprint (f : Frame) (s : State) :
    ∃ q v u, s.takeSchedule f = ((s.withQueue q).withChannels v).withFaults u := by
  unfold State.takeSchedule
  split
  · exact ⟨s.queue, s.channels, _, rfl⟩
  split
  · exact ⟨s.queue, s.channels, _, rfl⟩
  split
  · exact ⟨s.queue, s.channels, _, rfl⟩
  split
  · exact ⟨s.queue, s.channels, _, rfl⟩
  · exact s.offer_footprint _

/-- A STAGE changes the staging slots and the fault unit at most. -/
theorem State.takeStage_footprint (f : Frame) (s : State) :
    ∃ g u, s.takeStage f = (s.withStaging g).withFaults u := by
  unfold State.takeStage
  split
  · exact ⟨s.staging, _, rfl⟩
  split
  · exact ⟨s.staging, _, rfl⟩
  · rename_i p _
    exact ⟨(s.fillSlots f p).staging, s.faults, rfl⟩

/-- A RELEASE changes the staging slots, the queue, the channels and the fault unit at most. -/
theorem State.takeRelease_footprint (f : Frame) (s : State) :
    ∃ g q v u, s.takeRelease f = (((s.withStaging g).withQueue q).withChannels v).withFaults u := by
  unfold State.takeRelease
  split
  · exact ⟨s.staging, s.queue, s.channels, _, rfl⟩
  split
  · exact ⟨s.staging, s.queue, s.channels, s.faults, rfl⟩
  · rename_i first rest _
    obtain ⟨q, v, u, h⟩ := (s.emptySlots (byteAt f.payload 0)).offer_footprint (first :: rest)
    exact ⟨_, q, v, u, h⟩

/-- A scope of a CANCEL that acts changes the queue and the channels at most. -/
theorem State.cancelScope_footprint (l : ScopeLeft) (s : State) :
    ∃ q v, s.cancelScope l = (s.withQueue q).withChannels v := by
  unfold State.cancelScope
  split
  · exact ⟨(s.cancelQueue l.sender l.set l.tag).queue, s.channels, rfl⟩
  · exact ⟨s.queue, (s.cancelOutput l.set).channels, rfl⟩

/-- A scope that has waited changes the queue and the channels at most, and waits no more. -/
theorem State.finishCancel_footprint (s : State) :
    ∃ q v, s.finishCancel = ((s.withQueue q).withChannels v).withScopeLeft none := by
  unfold State.finishCancel
  split
  · rename_i h
    exact ⟨s.queue, s.channels, by cases s; cases h; rfl⟩
  · rename_i l _
    obtain ⟨q, v, h⟩ := s.cancelScope_footprint l
    exact ⟨q, v, by rw [h]⟩

/-- A scope that is handed over changes the queue, the channels and the scope that waits at most. -/
theorem State.handScope_footprint (set : Bool) (waits : Option CancelScope) (l : ScopeLeft) (s : State) :
    ∃ q v w, s.handScope set waits l = ((s.withQueue q).withChannels v).withScopeLeft w := by
  unfold State.handScope
  split
  · split
    · exact ⟨s.queue, s.channels, _, rfl⟩
    · obtain ⟨q, v, h⟩ := s.cancelScope_footprint l
      exact ⟨q, v, s.scopeLeft, by rw [h]; rfl⟩
  · exact ⟨s.queue, s.channels, s.scopeLeft, rfl⟩

/-- A CANCEL changes the queue, the staging slots, the channels, the fault unit and the scope that waits at
most. -/
theorem State.takeCancel_footprint (f : Frame) (s : State) :
    ∃ g q v u w, s.takeCancel f =
      ((((s.withStaging g).withQueue q).withChannels v).withFaults u).withScopeLeft w := by
  unfold State.takeCancel
  split
  · exact ⟨s.staging, s.queue, s.channels, (s.reject .malformed).faults, s.scopeLeft, rfl⟩
  · dsimp only
    obtain ⟨q₁, v₁, w₁, h₁⟩ := s.handScope_footprint ((byteAt f.payload 2).getLsbD 0)
      (s.waitingScope (byteAt f.payload 2)) ⟨.queue, f.sender, byteAt f.payload 0, byteAt f.payload 1⟩
    rw [h₁]
    split
    · obtain ⟨q₂, v₂, w₂, h₂⟩ := State.handScope_footprint ((byteAt f.payload 2).getLsbD 2)
        (s.waitingScope (byteAt f.payload 2)) ⟨.output, f.sender, byteAt f.payload 0, byteAt f.payload 1⟩
        ((((s.withQueue q₁).withChannels v₁).withScopeLeft w₁).cancelStaged f.sender (byteAt f.payload 0)
          (byteAt f.payload 1))
      exact ⟨_, q₂, v₂, s.faults, w₂, h₂⟩
    · obtain ⟨q₂, v₂, w₂, h₂⟩ := State.handScope_footprint ((byteAt f.payload 2).getLsbD 2)
        (s.waitingScope (byteAt f.payload 2)) ⟨.output, f.sender, byteAt f.payload 0, byteAt f.payload 1⟩
        (((s.withQueue q₁).withChannels v₁).withScopeLeft w₁)
      exact ⟨s.staging, q₂, v₂, s.faults, w₂, h₂⟩

/-- One binding entry's judgment changes the queue, the channels and the fault unit at most. -/
theorem State.judgeEntry_footprint (sender : StationId) (r : EdgeReport) (s : State) (i : BindingId) :
    ∃ q v u, s.judgeEntry sender r i = ((s.withQueue q).withChannels v).withFaults u := by
  unfold State.judgeEntry
  split
  · exact ⟨s.queue, s.channels, s.faults, rfl⟩
  · split
    · split
      · exact s.offer_footprint _
      · exact ⟨s.queue, s.channels, s.faults, rfl⟩
    · exact ⟨s.queue, s.channels, _, rfl⟩

/-- The judgment of an edge report by some entries changes the queue, the channels and the fault unit at
most. -/
theorem State.judgeEntries_footprint (sender : StationId) (r : EdgeReport) (is : List BindingId) (s : State) :
    ∃ q v u, is.foldl (State.judgeEntry sender r) s = ((s.withQueue q).withChannels v).withFaults u := by
  induction is generalizing s with
  | nil => exact ⟨s.queue, s.channels, s.faults, rfl⟩
  | cons i rest ih =>
    obtain ⟨q₁, v₁, u₁, h₁⟩ := s.judgeEntry_footprint sender r i
    obtain ⟨q₂, v₂, u₂, h₂⟩ := ih (s.judgeEntry sender r i)
    refine ⟨q₂, v₂, u₂, ?_⟩
    rw [List.foldl_cons, h₂, h₁]
    rfl

/-- The judgment of an edge report changes the queue, the channels and the fault unit at most. -/
theorem State.judgeReport_footprint (sender : StationId) (r : EdgeReport) (s : State) :
    ∃ q v u, s.judgeReport sender r = ((s.withQueue q).withChannels v).withFaults u :=
  State.judgeEntries_footprint sender r _ s

/-- An EDGE payload changes the queue, the channels and the fault unit at most. -/
theorem State.takeEdgeReport_footprint (f : Frame) (s : State) :
    ∃ q v u, s.takeEdgeReport f = ((s.withQueue q).withChannels v).withFaults u := by
  unfold State.takeEdgeReport
  split
  · exact ⟨s.queue, s.channels, s.faults, rfl⟩
  · exact s.judgeReport_footprint _ _

/-- A PROBE changes the peer table, the fault unit and the transmit list at most. -/
theorem State.takeProbe_footprint (f : Frame) (s : State) :
    ∃ p u l, s.takeProbe f = ((s.withPeers p).withFaults u).withLine { s.line with txList := l } := by
  unfold State.takeProbe
  split
  · exact ⟨s.peers, s.faults, s.line.txList, rfl⟩
  split
  · exact ⟨s.peers, s.faults, s.line.txList, rfl⟩
  · rename_i sel _
    unfold State.acceptProbe
    obtain ⟨l, h⟩ := State.join_footprint .report
      ((s.served sel).withFaults { s.faults with latch := some (s.snapshot f sel) })
    rw [h]
    cases sel <;> exact ⟨_, _, l, rfl⟩

/-! ### The timebase -/

/-- What the timebase does with a lead changes the timebase, the queue, the channels and the fault unit at
most, and the timebase state not at all. -/
theorem State.takeLead_footprint (lead : Int) (s : State) :
    ∃ t k q v u, s.takeLead lead =
      (((s.withTimebase ⟨t, s.timebase.sync, k⟩).withQueue q).withChannels v).withFaults u := by
  unfold State.takeLead
  split
  · split
    · obtain ⟨v, u, h⟩ := State.stepNotice_footprint s.timebase.busTime (advance s.timebase.busTime lead)
        (s.withTimebase { s.timebase with busTime := advance s.timebase.busTime lead })
      exact ⟨_, _, _, v, u, h⟩
    · exact ⟨s.timebase.busTime, s.timebase.candidate, s.queue, s.channels, s.faults, rfl⟩
  · split
    · exact ⟨s.timebase.busTime, s.timebase.candidate, s.queue, s.channels, s.faults, rfl⟩
    split
    · obtain ⟨v, u, h⟩ := State.stepNotice_footprint s.timebase.busTime (advance s.timebase.busTime lead)
        ((s.withTimebase { s.timebase with
            candidate := s.timebase.candidate.bind (reduceCandidate s.cfg.stepLimit lead) }).withTimebase
          { s.timebase with
            candidate := s.timebase.candidate.bind (reduceCandidate s.cfg.stepLimit lead)
            busTime := advance s.timebase.busTime lead })
      exact ⟨_, _, _, v, u, h⟩
    · refine ⟨(s.farLead lead).timebase.busTime, (s.farLead lead).timebase.candidate,
        (s.farLead lead).queue, s.channels, (s.farLead lead).faults, ?_⟩
      unfold State.farLead
      split
      · rfl
      · split <;> rfl

/-! ### Inputs and the line -/

/-- An update of the capture slot changes the inputs, the transmit list and the fault unit at most. -/
theorem State.updateSlot_footprint (n : InputId) (c : Capture) (s : State) :
    ∃ i l u, s.updateSlot n c = ((s.withInputs i).withLine { s.line with txList := l }).withFaults u := by
  unfold State.updateSlot
  split
  · obtain ⟨l, h⟩ := State.join_footprint (.edge n)
      (s.updateInput n fun i => { i with slot := some ⟨c, false⟩ })
    rw [h]
    exact ⟨(s.updateInput n fun i => { i with slot := some ⟨c, false⟩ }).inputs, l, s.faults, rfl⟩
  · split
    · split
      · exact ⟨(s.updateInput n fun i => { i with followOn := some c.overrunning }).inputs, s.line.txList,
          (s.setFlag .captureOverrun).faults, rfl⟩
      · exact ⟨(s.updateInput n fun i => { i with followOn := some c }).inputs, s.line.txList, s.faults, rfl⟩
    · exact ⟨(s.updateInput n fun i => { i with slot := some ⟨c.overrunning, false⟩ }).inputs,
        s.line.txList, (s.setFlag .captureOverrun).faults, rfl⟩

/-- The completion of an EDGE frame for its owner changes the inputs and the transmit list at most. -/
theorem State.edgeCompletes_footprint (n : InputId) (s : State) :
    ∃ i l, s.edgeCompletes n = (s.withInputs i).withLine { s.line with txList := l } := by
  unfold State.edgeCompletes
  dsimp only
  split
  · obtain ⟨l, h⟩ := State.join_footprint (.edge n) (s.updateInput n (Input.followOnTakes id))
    exact ⟨_, l, h⟩
  · exact ⟨(s.updateInput n (Input.followOnTakes id)).inputs, s.line.txList, rfl⟩

/-- The retry of an EDGE frame for its owner changes the inputs and the fault unit at most. -/
theorem State.edgeRetried_footprint (n : InputId) (s : State) :
    ∃ i u, s.edgeRetried n = (s.withInputs i).withFaults u := by
  unfold State.edgeRetried
  split
  · exact ⟨_, _, rfl⟩
  · exact ⟨s.inputs, s.faults, rfl⟩

/-- The drop of an EDGE request for its owner changes the inputs, the transmit list and the fault unit at
most. -/
theorem State.edgeDropped_footprint (n : InputId) (s : State) :
    ∃ i l u, s.edgeDropped n = ((s.withInputs i).withLine { s.line with txList := l }).withFaults u := by
  unfold State.edgeDropped
  dsimp only
  split
  · obtain ⟨l, h⟩ := State.join_footprint (.edge n)
      ((s.updateInput n (Input.followOnTakes Capture.overrunning)).setFlag .captureOverrun)
    rw [h]
    exact ⟨_, l, _, rfl⟩
  · exact ⟨(s.updateInput n (Input.followOnTakes Capture.overrunning)).inputs, s.line.txList, s.faults, rfl⟩

/-- The owner's part in a completion changes the inputs, the transmit list and the fault unit at most. -/
theorem State.ownerCompletes_footprint (r : Request) (s : State) :
    ∃ i l u, s.ownerCompletes r = ((s.withInputs i).withLine { s.line with txList := l }).withFaults u := by
  cases r with
  | edge n =>
    obtain ⟨i, l, h⟩ := s.edgeCompletes_footprint n
    exact ⟨i, l, s.faults, h⟩
  | report => exact ⟨s.inputs, s.line.txList, _, rfl⟩
  | beacon => exact ⟨s.inputs, s.line.txList, s.faults, rfl⟩

/-- The withdrawal of a BEACON request changes the transmit list at most. -/
theorem State.withdrawBeacon_footprint (r : Request) (s : State) :
    ∃ l, s.withdrawBeacon r = s.withLine { s.line with txList := l } := by
  cases r with
  | edge n => exact ⟨_, rfl⟩
  | report => exact ⟨_, rfl⟩
  | beacon => exact ⟨s.line.txList, rfl⟩

/-- A completion changes the inputs, the transmit list, the attempt count and the fault unit at most. -/
theorem State.headCompletes_footprint (s : State) :
    ∃ i l a u, s.headCompletes =
      ((s.withInputs i).withLine { s.line with txList := l, attempts := a }).withFaults u := by
  unfold State.headCompletes
  split
  · exact ⟨s.inputs, s.line.txList, s.line.attempts, s.faults, rfl⟩
  · rename_i r _ _
    obtain ⟨l₁, h₁⟩ := State.withdrawBeacon_footprint r s.popHead
    obtain ⟨i, l, u, h⟩ := State.ownerCompletes_footprint r (s.popHead.withdrawBeacon r)
    rw [h, h₁]
    exact ⟨i, l, 0, u, rfl⟩

/-- An abort changes the inputs, the transmit list, the attempt count and the fault unit at most. -/
theorem State.headAborts_footprint (s : State) :
    ∃ i l a u, s.headAborts =
      ((s.withInputs i).withLine { s.line with txList := l, attempts := a }).withFaults u := by
  unfold State.headAborts
  split
  · exact ⟨s.inputs, s.line.txList, s.line.attempts, s.faults, rfl⟩
  · rename_i r _ _
    split
    · cases r with
      | edge n =>
        obtain ⟨i, u, h⟩ := State.edgeRetried_footprint n
          (s.withLine { s.line with attempts := s.line.attempts + 1 })
        exact ⟨i, s.line.txList, _, u, h⟩
      | report => exact ⟨s.inputs, s.line.txList, s.line.attempts + 1, s.faults, rfl⟩
      | beacon => exact ⟨s.inputs, s.line.txList, s.line.attempts + 1, s.faults, rfl⟩
    · cases r with
      | edge n =>
        obtain ⟨i, l, u, h⟩ := State.edgeDropped_footprint n (s.popHead.setFlag .txDropped)
        exact ⟨i, l, 0, u, h⟩
      | report => exact ⟨s.inputs, s.line.txList.tail, 0, _, rfl⟩
      | beacon => exact ⟨s.inputs, s.line.txList.tail, 0, _, rfl⟩

/-- The requests of the full capture slots change the transmit list at most. -/
theorem State.raiseFullSlots_footprint (s : State) :
    ∃ l, s.raiseFullSlots = s.withLine { s.line with txList := l } := by
  unfold State.raiseFullSlots
  generalize List.finRange 4 = is
  induction is generalizing s with
  | nil => exact ⟨s.line.txList, rfl⟩
  | cons n rest ih =>
    rw [List.foldl_cons]
    split
    · obtain ⟨l₁, h₁⟩ := State.join_footprint (.edge n) s
      obtain ⟨l₂, h₂⟩ := ih (s.join (.edge n))
      refine ⟨l₂, ?_⟩
      rw [h₂, h₁]
      rfl
    · exact ih s

/-- The start of the beacon timer changes the timer and the transmit list at most. -/
theorem State.startBeacon_footprint (s : State) :
    ∃ l, s.startBeacon =
      s.withLine { s.line with txList := l, beaconTimer := some s.cfg.beaconInterval } := by
  obtain ⟨l, h⟩ := State.join_footprint .beacon
    (s.withLine { s.line with beaconTimer := some s.cfg.beaconInterval })
  exact ⟨l, h⟩

/-- The end of mute changes the beacon timer and the transmit list at most. -/
theorem State.endMute_footprint (s : State) :
    ∃ l, s.endMute = s.withLine { s.line with txList := l, beaconTimer := some s.cfg.beaconInterval } := by
  obtain ⟨l₁, h₁⟩ := s.raiseFullSlots_footprint
  obtain ⟨l₂, h₂⟩ := s.raiseFullSlots.startBeacon_footprint
  refine ⟨l₂, ?_⟩
  unfold State.endMute
  rw [h₂, h₁]
  rfl

/-- A CLEAR changes the fault unit, the beacon timer and the transmit list at most. -/
theorem State.takeClear_footprint (f : Frame) (s : State) :
    ∃ l b u, s.takeClear f = (s.withLine { s.line with txList := l, beaconTimer := b }).withFaults u := by
  unfold State.takeClear
  split
  · exact ⟨s.line.txList, s.line.beaconTimer, _, rfl⟩
  · dsimp only
    split
    · obtain ⟨l, h⟩ := (s.clearFlags ((field16 f.payload 0).setWidth 13)).endMute_footprint
      rw [h]
      exact ⟨l, _, _, rfl⟩
    · exact ⟨s.line.txList, s.line.beaconTimer, _, rfl⟩

/-- An accepted edge changes the inputs, the queue, the channels, the transmit list and the fault unit at
most. -/
theorem State.acceptEdge_footprint (n : InputId) (rising : Bool) (time : BusTime) (s : State) :
    ∃ i q v l u, s.acceptEdge n rising time =
      ((((s.withInputs i).withQueue q).withChannels v).withLine { s.line with txList := l }).withFaults u := by
  unfold State.acceptEdge
  dsimp only
  obtain ⟨q, v, u₁, h₁⟩ := State.judgeReport_footprint s.cfg.ownId
    ⟨n, rising, s.inputs[n].edgeCount + 1, time⟩
    (s.updateInput n fun i => { i with edgeCount := s.inputs[n].edgeCount + 1 })
  rw [h₁]
  obtain ⟨i, l, u, h⟩ := State.updateSlot_footprint n ⟨time, rising, s.inputs[n].edgeCount + 1, false⟩
    ((((s.updateInput n fun i => { i with edgeCount := s.inputs[n].edgeCount + 1 }).withQueue
      q).withChannels v).withFaults u₁)
  rw [h]
  exact ⟨i, q, v, l, u, rfl⟩

/-- A sample changes the pin's level as seen, the inputs, the queue, the channels, the transmit list and the
fault unit at most. -/
theorem State.takeSample_footprint (n : InputId) (level : Bool) (s : State) :
    ∃ x i q v l u, s.takeSample n level =
      (((((s.withExt { s.ext with tin := x }).withInputs i).withQueue q).withChannels v).withLine
        { s.line with txList := l }).withFaults u := by
  have base : ∀ r : Filtered, ∃ x i, (s.seeLevel n level).updateInput n
      (Input.afterSample level s.cfg.inputs[n].period r) =
      (s.withExt { s.ext with tin := x }).withInputs i := fun r => ⟨s.ext.tin.set n level,
        (s.updateInput n (Input.afterSample level s.cfg.inputs[n].period r)).inputs, rfl⟩
  obtain ⟨x, i, hb⟩ := base (s.filtered n level)
  unfold State.takeSample
  dsimp only
  rw [hb]
  have plain : ∃ x' i' q v l u, (s.withExt { s.ext with tin := x }).withInputs i =
      (((((s.withExt { s.ext with tin := x' }).withInputs i').withQueue q).withChannels v).withLine
        { s.line with txList := l }).withFaults u :=
    ⟨x, i, s.queue, s.channels, s.line.txList, s.faults, rfl⟩
  split
  · rename_i time _
    split
    · obtain ⟨i', q, v, l, u, h⟩ := State.acceptEdge_footprint n level time
        ((s.withExt { s.ext with tin := x }).withInputs i)
      rw [h]
      exact ⟨x, i', q, v, l, u, rfl⟩
    · exact plain
  · exact plain
  · exact plain
  · exact plain

/-- The start of a slot changes the carrier, the episode, the round and the inputs at most. -/
theorem State.slotStarts_footprint (s : State) :
    ∃ x e r i, s.slotStarts =
      ((s.withExt { s.ext with carrier := x }).withLine { s.line with episode := e, round := r }).withInputs i := by
  unfold State.slotStarts
  split
  · split
    · exact ⟨s.ext.carrier, s.line.episode, s.line.round, s.inputs, rfl⟩
    · split
      · exact ⟨s.ext.carrier, s.line.episode, s.line.round, s.inputs, rfl⟩
      · rename_i r _ _ _ bytes _
        cases r with
        | edge n => exact ⟨true, .own ⟨bytes, true, s.cfg.frameTicks bytes⟩, none, _, rfl⟩
        | report => exact ⟨true, .own ⟨bytes, true, s.cfg.frameTicks bytes⟩, none, s.inputs, rfl⟩
        | beacon => exact ⟨true, .own ⟨bytes, true, s.cfg.frameTicks bytes⟩, none, s.inputs, rfl⟩
  · exact ⟨s.ext.carrier, s.line.episode, s.line.round, s.inputs, rfl⟩

/-- A reset changes nothing outside but the carrier. -/
theorem State.outsideAfterReset_footprint (s : State) :
    ∃ x, s.outsideAfterReset = { s.ext with carrier := x } := by
  unfold State.outsideAfterReset
  split
  · exact ⟨false, rfl⟩
  all_goals exact ⟨s.ext.carrier, rfl⟩

end Sys2Proof.Machine
end

