-- ==== Sys2Proof/Laws/Time.lean ====
section
/-! SUPPORT. The arithmetic of bus times: signed differences under steps and ticks. -/

namespace Sys2Proof.Machine

/-- A signed difference lies in the range of 40-bit two's complement (00_scope.md 4.3). -/
theorem signedDiff_range (a b : BusTime) : -2 ^ 39 ≤ signedDiff a b ∧ signedDiff a b < 2 ^ 39 := by
  unfold signedDiff
  have h₁ := BitVec.le_toInt (a - b)
  have h₂ := BitVec.toInt_lt (x := a - b)
  omega

/-- A step of bus time takes its lead off every signed difference that stays in range. -/
theorem signedDiff_advance (f b : BusTime) (n : Int) (h₁ : -2 ^ 39 ≤ signedDiff f b - n)
    (h₂ : signedDiff f b - n < 2 ^ 39) : signedDiff f (advance b n) = signedDiff f b - n := by
  unfold signedDiff advance at *
  have : f - (b + BitVec.ofInt 40 n) = (f - b) - BitVec.ofInt 40 n := by
    apply BitVec.eq_of_toNat_eq
    simp only [BitVec.toNat_sub, BitVec.toNat_add]
    have := f.isLt
    have := b.isLt
    have := (BitVec.ofInt 40 n).isLt
    omega
  rw [this, BitVec.toInt_sub, BitVec.toInt_ofInt, Int.sub_bmod_bmod]
  exact Int.bmod_eq_of_le (by omega) (by omega)

/-- The signed difference of a stepped bus time and the one before it is the lead. -/
theorem signedDiff_of_advance (b : BusTime) (n : Int) (h₁ : -2 ^ 39 ≤ n) (h₂ : n < 2 ^ 39) :
    signedDiff (advance b n) b = n := by
  unfold signedDiff advance
  have : b + BitVec.ofInt 40 n - b = BitVec.ofInt 40 n := by
    rw [BitVec.add_comm, BitVec.add_sub_cancel]
  rw [this, BitVec.toInt_ofInt]
  exact Int.bmod_eq_of_le (by omega) (by omega)

/-- A tick is a step of one. -/
theorem tick_eq_advance (b : BusTime) : b + 1 = advance b 1 := rfl

/-- A lead of one frame lies in the range of a signed difference (R5). -/
theorem leadOf_range (stamp : BusTime) (d : Nat) (arrival : BusTime) :
    -2 ^ 39 ≤ leadOf stamp d arrival ∧ leadOf stamp d arrival < 2 ^ 39 := signedDiff_range _ _

/-- Two times whose signed difference from a third is the same are one time. -/
theorem signedDiff_inj (a b t : BusTime) (h : signedDiff a t = signedDiff b t) : a = b := by
  have := BitVec.eq_of_toInt_eq h
  have h₂ : a - t + t = b - t + t := by rw [this]
  rwa [BitVec.sub_add_cancel, BitVec.sub_add_cancel] at h₂

/-- Ordered differences from a third time that lie within the half range order the times. -/
theorem later_iff_of_range (a b t : BusTime) (h₁ : -2 ^ 39 ≤ signedDiff a t - signedDiff b t)
    (h₂ : signedDiff a t - signedDiff b t < 2 ^ 39) :
    signedDiff a b = signedDiff a t - signedDiff b t := by
  unfold signedDiff at *
  have : a - b = (a - t) - (b - t) := by
    apply BitVec.eq_of_toNat_eq
    simp only [BitVec.toNat_sub]
    have := a.isLt
    have := b.isLt
    have := t.isLt
    omega
  rw [this, BitVec.toInt_sub]
  exact Int.bmod_eq_of_le (by omega) (by omega)

end Sys2Proof.Machine
end

