-- ==== Sys2Proof/Laws/Queue.lean ====
section
/-! SUPPORT. What the cue queue's operations do to its list: insertion, offers, ticks and steps. -/

namespace Sys2Proof.Machine

/-! ### Insertion (R38) -/

/-- An insertion adds one entry. -/
@[simp] theorem insertEntry_length (e : CueEntry) (q : List CueEntry) :
    (insertEntry e q).length = q.length + 1 := by
  induction q with
  | nil => rfl
  | cons x rest ih =>
    unfold insertEntry
    split <;> simp [ih]

/-- An insertion adds exactly its entry. -/
@[simp] theorem mem_insertEntry (e x : CueEntry) (q : List CueEntry) :
    x ∈ insertEntry e q ↔ x = e ∨ x ∈ q := by
  induction q with
  | nil => simp [insertEntry]
  | cons y rest ih =>
    unfold insertEntry
    split
    · simp
    · simp only [List.mem_cons, ih]
      tauto

/-- Insertions add as many entries as there are firings. -/
theorem insertAll_length (fs : List Firing) (q : List CueEntry) :
    (insertAll fs q).length = fs.length + q.length := by
  unfold insertAll
  induction fs generalizing q with
  | nil => simp
  | cons f rest ih =>
    rw [List.foldl_cons, ih]
    simp
    omega

/-- Insertions add exactly the entries of their firings. -/
theorem mem_insertAll (fs : List Firing) (q : List CueEntry) (x : CueEntry) :
    x ∈ insertAll fs q ↔ (∃ f ∈ fs, x = f.toEntry) ∨ x ∈ q := by
  unfold insertAll
  induction fs generalizing q with
  | nil => simp
  | cons f rest ih =>
    rw [List.foldl_cons, ih]
    simp only [mem_insertEntry, List.mem_cons, exists_eq_or_imp]
    rw [← or_assoc, or_comm (b := x = f.toEntry)]

/-- A relation between entries that an insertion keeps, the new entry standing after the entries that are
not later and before the later ones. -/
theorem insertEntry_pairwise {R : CueEntry → CueEntry → Prop} (e : CueEntry) (q : List CueEntry)
    (hq : q.Pairwise R) (before : ∀ x ∈ q, later x.fireTime e.fireTime = false → R x e)
    (after : ∀ x ∈ q, ∀ y ∈ q, later x.fireTime e.fireTime = true → (x = y ∨ R x y) → R e y) :
    (insertEntry e q).Pairwise R := by
  induction q with
  | nil => simp [insertEntry]
  | cons x rest ih =>
    rw [List.pairwise_cons] at hq
    unfold insertEntry
    split
    · rename_i hl
      rw [List.pairwise_cons]
      refine ⟨fun y hy => ?_, List.pairwise_cons.mpr hq⟩
      rcases List.mem_cons.mp hy with rfl | hy'
      · exact after y (by simp) y (by simp) hl (Or.inl rfl)
      · exact after x (by simp) y (by simp [hy']) hl (Or.inr (hq.1 y hy'))
    · rename_i hl
      rw [List.pairwise_cons]
      refine ⟨fun y hy => ?_, ih hq.2 (fun z hz => before z (by simp [hz]))
        (fun z hz y hy => after z (by simp [hz]) y (by simp [hy]))⟩
      rcases (mem_insertEntry e y rest).mp hy with rfl | hy'
      · exact before x (by simp) (by simpa using hl)
      · exact hq.1 y hy'

/-- A symmetric relation that insertions keep. -/
theorem insertEntry_pairwise_symm {R : CueEntry → CueEntry → Prop} (e : CueEntry) (q : List CueEntry)
    (hq : q.Pairwise R) (h₁ : ∀ x ∈ q, R x e) (h₂ : ∀ x ∈ q, R e x) : (insertEntry e q).Pairwise R :=
  insertEntry_pairwise e q hq (fun x hx _ => h₁ x hx) (fun _ _ y hy _ _ => h₂ y hy)

/-! ### Offers (R41 to R52) -/

/-- An offer that is refused leaves the queue; one that is accepted removes the replaced entries and inserts
the future firings, and then fits. -/
theorem State.offer_queue (fs : List Firing) (s : State) :
    (s.offer fs).queue = s.queue ∨
      (s.firstRefusal fs = none ∧ s.offerOverflows fs = false ∧
        (s.offer fs).queue = insertAll (s.futures fs) (s.queue.filter fun e => !replacedBy fs e)) := by
  cases hr : s.firstRefusal fs with
  | some r =>
    left
    simp [State.offer, hr, State.reject, State.setFlag]
  | none =>
    cases ho : s.offerOverflows fs with
    | true =>
      left
      simp [State.offer, hr, ho, State.reject, State.setFlag]
    | false =>
      right
      refine ⟨rfl, rfl, ?_⟩
      obtain ⟨v, hv⟩ := State.deliverAll_footprint (s.immediates fs)
        (s.withQueue (insertAll (s.futures fs) (s.queue.filter fun e => !replacedBy fs e)))
      obtain ⟨u, hu⟩ := State.setFlagIf_footprint
        (fs.any fun f => decide (s.timeClass f.fireTime = .late)) .lateFire
        (List.foldl State.deliverNow
          (s.withQueue (insertAll (s.futures fs) (s.queue.filter fun e => !replacedBy fs e)))
          (s.immediates fs))
      simp only [State.offer, hr, ho, State.acceptOffer, hu]
      rw [hv]
      simp

/-- A firing of the future class lies one tick to the horizon ahead (R42). -/
theorem State.future_range (s : State) (fire : BusTime) (h : s.timeClass fire = .future) :
    0 < signedDiff fire s.timebase.busTime ∧ signedDiff fire s.timebase.busTime ≤ 2 ^ 31 := by
  unfold State.timeClass classOf at h
  split at h
  · cases h
  · split at h
    · rename_i h₁ h₂
      exact ⟨h₂, by simpa using h₁⟩
    · split at h
      · cases h
      · split at h <;> cases h

end Sys2Proof.Machine
end

