-- ==== Sys2Proof/Laws/Channels.lean ====
section
/-! SUPPORT. What every path of a firing does to the channels: a property of a channel that the taking of
the firings keeps is kept by the offer, the tick and the step that deliver them. -/

namespace Sys2Proof.Machine

variable {Q : ChannelId → Channel → Prop}

/-- The taking of a program keeps a property of the channel it meets. -/
def TakesKeep (Q : ChannelId → Channel → Prop) (i : ChannelId) (p : Program) : Prop :=
  ∀ (g : Nat) (late : Bool) (c : Channel), Q i c → Q i (c.takeFiring g p late)

/-- What CANCEL in output scope leaves of each channel (R88). -/
theorem State.cancelOutput_channel (set : Byte) (s : State) (i : ChannelId) :
    (s.cancelOutput set).channels[i] =
      if set.getLsbD i.val then s.channels[i].endWork (s.gap i) else s.channels[i] :=
  mapFamily_getElem _ _ i

/-- A change of one channel keeps a property of all when it keeps that channel's. -/
theorem State.updateChannel_all (c : ChannelId) (f : Channel → Channel) (s : State)
    (h : ∀ i : ChannelId, Q i s.channels[i]) (hf : Q c s.channels[c] → Q c (f s.channels[c])) :
    ∀ i : ChannelId, Q i (s.updateChannel c f).channels[i] := by
  intro i
  change Q i (s.channels.set c (f s.channels[c]))[i]
  by_cases hi : c = i
  · subst hi
    simpa using hf (h c)
  · have hne : (c : Nat) ≠ (i : Nat) := fun h => hi (Fin.ext h)
    simp only [Fin.getElem_fin, Vector.getElem_set, hne, if_false]
    exact h i

/-- A delivery keeps a property of the channels that its program keeps. -/
theorem State.deliver_all (c : ChannelId) (p : Program) (late : Bool) (s : State)
    (hk : TakesKeep Q c p) (h : ∀ i : ChannelId, Q i s.channels[i]) :
    ∀ i : ChannelId, Q i (s.deliver c p late).channels[i] :=
  s.updateChannel_all c _ h fun hc => hk _ _ _ hc

/-- Immediate deliveries keep a property of the channels that their programs keep. -/
theorem State.deliverAll_all (fs : List Firing) (s : State)
    (hk : ∀ f ∈ fs, TakesKeep Q f.content.channel f.content.program)
    (h : ∀ i : ChannelId, Q i s.channels[i]) :
    ∀ i : ChannelId, Q i (fs.foldl State.deliverNow s).channels[i] := by
  induction fs generalizing s with
  | nil => exact h
  | cons f rest ih =>
    rw [List.foldl_cons]
    exact ih _ (fun g hg => hk g (by simp [hg])) (s.deliver_all _ _ _ (hk f (by simp)) h)

/-- The delivery of entries keeps a property of the channels that their programs keep. -/
theorem State.deliverEntries_all (late : CueEntry → Bool) (es : List CueEntry) (s : State)
    (hk : ∀ e ∈ es, TakesKeep Q e.content.channel e.content.program)
    (h : ∀ i : ChannelId, Q i s.channels[i]) :
    ∀ i : ChannelId, Q i (es.foldl (fun t e => t.deliverEntry (late e) e) s).channels[i] := by
  induction es generalizing s with
  | nil => exact h
  | cons e rest ih =>
    rw [List.foldl_cons]
    refine ih _ (fun g hg => hk g (by simp [hg])) ?_
    unfold State.deliverEntry
    split
    · exact s.deliver_all _ _ _ (hk e (by simp)) h
    · exact h

/-- An offer keeps a property of the channels that its programs keep. -/
theorem State.offer_all (fs : List Firing) (s : State)
    (hk : ∀ f ∈ fs, TakesKeep Q f.content.channel f.content.program)
    (h : ∀ i : ChannelId, Q i s.channels[i]) : ∀ i : ChannelId, Q i (s.offer fs).channels[i] := by
  unfold State.offer
  split
  · exact h
  · split
    · exact h
    · have hd := State.deliverAll_all (Q := Q) (s.immediates fs)
        (s.withQueue (insertAll (s.futures fs) (s.queue.filter fun e => !replacedBy fs e)))
        (fun f hf => hk f (List.mem_filter.mp hf).1) h
      unfold State.acceptOffer
      dsimp only
      obtain ⟨u, hu⟩ := State.setFlagIf_footprint
        (fs.any fun f => decide (s.timeClass f.fireTime = .late)) .lateFire
        (List.foldl State.deliverNow
          (s.withQueue (insertAll (s.futures fs) (s.queue.filter fun e => !replacedBy fs e)))
          (s.immediates fs))
      rw [hu]
      exact hd

/-- A tick of bus time keeps a property of the channels that the stored programs keep. -/
theorem State.busTick_all (s : State)
    (hk : ∀ e ∈ s.queue, TakesKeep Q e.content.channel e.content.program)
    (h : ∀ i : ChannelId, Q i s.channels[i]) : ∀ i : ChannelId, Q i s.busTick.channels[i] :=
  State.deliverEntries_all (fun _ => false) _ _ (fun e he => hk e (List.mem_filter.mp he).1) h

/-- A step notice keeps a property of the channels that the stored programs keep. -/
theorem State.stepNotice_all (before after : BusTime) (s : State)
    (hk : ∀ e ∈ s.queue, TakesKeep Q e.content.channel e.content.program)
    (h : ∀ i : ChannelId, Q i s.channels[i]) :
    ∀ i : ChannelId, Q i (s.stepNotice before after).channels[i] := by
  have hd := State.deliverEntries_all (Q := Q) (passedBy after) (s.queue.filter (reachedBy before after))
    (s.withQueue (s.queue.filter fun e => !reachedBy before after e))
    (fun e he => hk e (List.mem_filter.mp he).1) h
  unfold State.stepNotice
  dsimp only
  obtain ⟨u, hu⟩ := State.setFlagIf_footprint ((s.queue.filter (reachedBy before after)).any (passedBy after))
    .lateFire ((s.queue.filter (reachedBy before after)).foldl
      (fun t e => t.deliverEntry (passedBy after e) e)
      (s.withQueue (s.queue.filter fun e => !reachedBy before after e)))
  rw [hu]
  exact hd

/-- The timebase's action on a lead keeps a property of the channels that the stored programs keep. -/
theorem State.takeLead_all (lead : Int) (s : State)
    (hk : ∀ e ∈ s.queue, TakesKeep Q e.content.channel e.content.program)
    (h : ∀ i : ChannelId, Q i s.channels[i]) : ∀ i : ChannelId, Q i (s.takeLead lead).channels[i] := by
  unfold State.takeLead
  split
  · split
    · exact State.stepNotice_all _ _ (s.withTimebase _) hk h
    · exact h
  · split
    · exact h
    split
    · exact State.stepNotice_all _ _ ((s.withTimebase _).withTimebase _) hk h
    · unfold State.farLead
      split
      · exact h
      · split <;> exact h

/-- The judgment of an edge report keeps a property of the channels that the bindings' programs keep. -/
theorem State.judgeReport_all (sender : StationId) (r : EdgeReport) (s : State)
    (hk : ∀ (i : BindingId) (b : Binding), s.bindings[i] = some b →
      TakesKeep Q b.content.channel b.content.program)
    (h : ∀ i : ChannelId, Q i s.channels[i]) : ∀ i : ChannelId, Q i (s.judgeReport sender r).channels[i] := by
  unfold State.judgeReport
  generalize List.finRange 16 = is
  induction is generalizing s with
  | nil => exact h
  | cons j rest ih =>
    rw [List.foldl_cons]
    obtain ⟨q, v, u, hf⟩ := s.judgeEntry_footprint sender r j
    refine ih _ (by rw [hf]; exact hk) ?_
    unfold State.judgeEntry
    split
    · exact h
    · rename_i b hb
      split
      · split
        · exact s.offer_all _ (fun f hfm => by
            rw [List.mem_singleton.mp hfm]
            exact hk j b hb) h
        · exact h
      · exact h

end Sys2Proof.Machine
end

