-- ==== Sys2Proof/Laws/Codec.lean ====
section
/-! SUPPORT. Lemmas of the line coding: what the judgment of a reception does with the levels of a frame. -/

namespace Sys2Proof.Machine

/-- The levels of some bits give the bits back. -/
theorem bitsOfLevels_halfLevels (l : List Bool) : bitsOfLevels (l.flatMap halfLevels) = some l := by
  induction l with
  | nil => rfl
  | cons a l ih =>
    simp only [List.flatMap_cons, halfLevels, List.cons_append, List.nil_append, bitsOfLevels, ih]
    cases a <;> simp

/-- A bit time without a transition at its middle is a coding violation. -/
theorem bitsOfLevels_violation (l rest : List Bool) (c : Bool) :
    bitsOfLevels (l.flatMap halfLevels ++ c :: c :: rest) = none := by
  induction l with
  | nil => simp [bitsOfLevels]
  | cons a l ih =>
    simp only [List.flatMap_cons, halfLevels, List.cons_append, List.nil_append, bitsOfLevels, ih]
    cases a <;> simp

/-- The level held after the last mid-bit transition is left out. -/
theorem untilLastTransition_held (before : List Bool) (b : Bool) (held : Nat) :
    untilLastTransition (before ++ halfLevels b ++ List.replicate held b) = before ++ halfLevels b := by
  unfold halfLevels
  induction before with
  | nil =>
    simp only [List.nil_append, List.cons_append, untilLastTransition]
    rw [if_neg (by cases b <;> simp), if_pos (by simp)]
  | cons a before ih =>
    simp only [List.cons_append, untilLastTransition] at *
    rw [if_neg, ih]
    cases a <;> cases b <;> simp

/-- The levels of a frame: those of the preamble and the delimiter, then those of the bytes. -/
theorem lineLevels_eq (bytes : List Byte) : lineLevels bytes =
    (preambleBits ++ delimiterBits).flatMap halfLevels ++ (bytes.flatMap byteBits).flatMap halfLevels := by
  unfold lineLevels lineBits
  rw [List.flatMap_append]

/-- A receiver that locks on within the preamble finds the delimiter in its place. -/
theorem afterDelimiter_late (n : Nat) (hn : n ≤ 32) (l : List Bool) :
    afterDelimiter (((preambleBits ++ delimiterBits).flatMap halfLevels ++ l).drop n) = some l := by
  interval_cases n <;> rfl

/-- A coding violation in the preamble does not keep the delimiter from being found. -/
theorem afterDelimiter_violation (i : Nat) (hi : i < 16) (c : Bool) (l : List Bool) :
    afterDelimiter ((((preambleBits ++ delimiterBits).flatMap halfLevels).set (2 * i) c).set (2 * i + 1) c ++ l) =
      some l := by
  interval_cases i <;> cases c <;> rfl

/-- The bits that some levels give have these levels. -/
theorem halfLevels_of_bitsOfLevels : ∀ (l bits : List Bool), bitsOfLevels l = some bits →
    l = bits.flatMap halfLevels
  | [], bits, h => by
    cases h
    rfl
  | [_], _, h => by simp [bitsOfLevels] at h
  | a :: b :: rest, bits, h => by
    simp only [bitsOfLevels] at h
    split at h
    · cases h
    · rename_i hab
      obtain ⟨tail, ht, rfl⟩ := Option.map_eq_some_iff.mp h
      rw [List.flatMap_cons, ← halfLevels_of_bitsOfLevels rest tail ht]
      cases a <;> cases b <;> simp_all [halfLevels]

/-- A byte has the eight bits that it was made of. -/
theorem byteBits_byteOfBits (b7 b6 b5 b4 b3 b2 b1 b0 : Bool) :
    byteBits (byteOfBits [b7, b6, b5, b4, b3, b2, b1, b0]) = [b7, b6, b5, b4, b3, b2, b1, b0] := by
  revert b7 b6 b5 b4 b3 b2 b1 b0
  decide

/-- The bytes that some bits give have these bits. -/
theorem byteBits_of_bytesOfBits : ∀ (l : List Bool) (bytes : List Byte), bytesOfBits l = some bytes →
    l = bytes.flatMap byteBits
  | [], bytes, h => by
    cases h
    rfl
  | b7 :: b6 :: b5 :: b4 :: b3 :: b2 :: b1 :: b0 :: rest, bytes, h => by
    unfold bytesOfBits at h
    obtain ⟨tail, ht, rfl⟩ := Option.map_eq_some_iff.mp h
    rw [List.flatMap_cons, ← byteBits_of_bytesOfBits rest tail ht, byteBits_byteOfBits]
    rfl
  | [_], _, h => by cases h
  | [_, _], _, h => by cases h
  | [_, _, _], _, h => by cases h
  | [_, _, _, _], _, h => by cases h
  | [_, _, _, _, _], _, h => by cases h
  | [_, _, _, _, _, _], _, h => by cases h
  | [_, _, _, _, _, _, _], _, h => by cases h

/-- What follows the delimiter follows its levels. -/
theorem afterDelimiter_eq_some : ∀ (l after : List Bool), afterDelimiter l = some after →
    ∃ lead, l = lead ++ delimiterLevels ++ after
  | [], _, h => by cases h
  | a :: rest, after, h => by
    unfold afterDelimiter at h
    split at h
    · rename_i hd
      cases h
      exact ⟨[], by rw [List.nil_append, ← hd, List.take_append_drop]⟩
    · obtain ⟨lead, hl⟩ := afterDelimiter_eq_some rest after h
      exact ⟨a :: lead, by rw [hl]; rfl⟩

/-- What is left out after the last transition is its level, held. -/
theorem eq_untilLastTransition_held : ∀ (l : List Bool) (a : Bool), ∃ (last : Bool) (held : Nat),
    (untilLastTransition (a :: l)).getLast? = some last ∧
      a :: l = untilLastTransition (a :: l) ++ List.replicate held last
  | l, a => by
    unfold untilLastTransition
    split
    · rename_i h
      refine ⟨a, l.length, rfl, ?_⟩
      rw [List.singleton_append]
      congr 1
      exact List.eq_replicate_iff.mpr ⟨rfl, fun b hb => of_decide_eq_true (List.all_eq_true.mp h b hb)⟩
    · rename_i h
      cases l with
      | nil => exact absurd rfl h
      | cons b l =>
        obtain ⟨last, held, h1, h2⟩ := eq_untilLastTransition_held l b
        refine ⟨last, held, ?_, ?_⟩
        · rw [List.getLast?_cons, h1]
          rfl
        · rw [List.cons_append, ← h2]

end Sys2Proof.Machine
end

