-- ==== Sys2Proof/Laws/Faults.lean ====
section
/-! SUPPORT. What the blocks do to the fault unit: they raise flags other than ID_CLASH and record reasons,
and touch neither the mask nor the latch. -/

namespace Sys2Proof.Machine

/-- The fault unit has at most had flags other than ID_CLASH set and a reject reason recorded. -/
structure FaultUnit.Raised (u v : FaultUnit) : Prop where
  latch : v.latch = u.latch
  mask : v.mask = u.mask
  clash : v.flags.getLsbD 9 = u.flags.getLsbD 9
  kept : ∀ f : Flag, flagIn u.flags f = true → flagIn v.flags f = true

/-- Nothing raised. -/
theorem FaultUnit.Raised.refl (u : FaultUnit) : u.Raised u := ⟨rfl, rfl, rfl, fun _ h => h⟩

/-- One raising after another. -/
theorem FaultUnit.Raised.trans {u v w : FaultUnit} (h₁ : u.Raised v) (h₂ : v.Raised w) : u.Raised w :=
  ⟨h₂.latch.trans h₁.latch, h₂.mask.trans h₁.mask, h₂.clash.trans h₁.clash,
    fun f h => h₂.kept f (h₁.kept f h)⟩

/-- A flag is in a set with a flag added when it is that flag or was in the set. -/
theorem flagIn_or (flags : BitVec 13) (f g : Flag) :
    flagIn (flags ||| flagBit f) g = (flagIn flags g || decide (g = f)) := by
  unfold flagIn
  rw [BitVec.getLsbD_or]
  congr 1
  cases f <;> cases g <;> decide

/-- Setting a flag sets it and keeps every other. -/
theorem State.setFlag_flag (f g : Flag) (s : State) : (s.setFlag f).flag g = (s.flag g || decide (g = f)) :=
  flagIn_or s.faults.flags f g

/-- Setting a flag other than ID_CLASH raises. -/
theorem State.setFlag_raised (f : Flag) (s : State) (h : f ≠ .idClash) :
    s.faults.Raised (s.setFlag f).faults := by
  refine ⟨rfl, rfl, ?_, fun g hg => ?_⟩
  · have := flagIn_or s.faults.flags f .idClash
    have hd : decide (Flag.idClash = f) = false := by simpa using fun he => h he.symm
    rw [hd, Bool.or_false] at this
    exact this
  · have := s.setFlag_flag f g
    unfold State.flag at this
    rw [this, hg]
    rfl

/-- Setting a flag other than ID_CLASH on a cause raises. -/
theorem State.setFlagIf_raised (b : Bool) (f : Flag) (s : State) (h : f ≠ .idClash) :
    s.faults.Raised (s.setFlagIf b f).faults := by
  cases b
  · exact FaultUnit.Raised.refl _
  · exact s.setFlag_raised f h

/-- A rejection raises. -/
theorem State.reject_raised (r : RejectReason) (s : State) : s.faults.Raised (s.reject r).faults := by
  have h₁ : s.faults.Raised (s.withFaults { s.faults with reason := r }).faults :=
    ⟨rfl, rfl, rfl, fun _ h => h⟩
  exact h₁.trans (State.setFlag_raised _ _ (by cases r <;> decide))

/-- The delivery of an entry raises. -/
theorem State.deliverEntry_raised (late : Bool) (s : State) (e : CueEntry) :
    s.faults.Raised (s.deliverEntry late e).faults := by
  unfold State.deliverEntry
  split
  · exact FaultUnit.Raised.refl _
  · exact s.setFlag_raised _ (by decide)

/-- The delivery of entries raises. -/
theorem State.deliverEntries_raised (late : CueEntry → Bool) (es : List CueEntry) (s : State) :
    s.faults.Raised (es.foldl (fun t e => t.deliverEntry (late e) e) s).faults := by
  induction es generalizing s with
  | nil => exact FaultUnit.Raised.refl _
  | cons e rest ih =>
    rw [List.foldl_cons]
    exact (s.deliverEntry_raised _ e).trans (ih _)

/-- An offer raises. -/
theorem State.offer_raised (fs : List Firing) (s : State) : s.faults.Raised (s.offer fs).faults := by
  unfold State.offer
  split
  · exact s.reject_raised _
  · split
    · exact s.reject_raised _
    · unfold State.acceptOffer
      dsimp only
      obtain ⟨v, hv⟩ := State.deliverAll_footprint (s.immediates fs)
        (s.withQueue (insertAll (s.futures fs) (s.queue.filter fun e => !replacedBy fs e)))
      have h₁ : s.faults.Raised (List.foldl State.deliverNow
          (s.withQueue (insertAll (s.futures fs) (s.queue.filter fun e => !replacedBy fs e)))
          (s.immediates fs)).faults := by
        rw [hv]
        exact FaultUnit.Raised.refl _
      exact h₁.trans (State.setFlagIf_raised _ _ _ (by decide))

/-- A tick of bus time raises. -/
theorem State.busTick_raised (s : State) : s.faults.Raised s.busTick.faults :=
  State.deliverEntries_raised (fun _ => false) _
    ((s.withTimebase { s.timebase with busTime := s.timebase.busTime + 1 }).withQueue
      (s.queue.filter fun e => !decide (e.fireTime = s.timebase.busTime + 1)))

/-- A step notice raises. -/
theorem State.stepNotice_raised (before after : BusTime) (s : State) :
    s.faults.Raised (s.stepNotice before after).faults :=
  (State.deliverEntries_raised (passedBy after) _
    (s.withQueue (s.queue.filter fun e => !reachedBy before after e))).trans
      (State.setFlagIf_raised _ _ _ (by decide))

/-- A step of bus time raises. -/
theorem State.stepTime_raised (lead : Int) (s : State) : s.faults.Raised (s.stepTime lead).faults :=
  State.stepNotice_raised s.timebase.busTime (advance s.timebase.busTime lead)
    (s.withTimebase { s.timebase with busTime := advance s.timebase.busTime lead })

/-- The timebase's action on a lead raises. -/
theorem State.takeLead_raised (lead : Int) (s : State) : s.faults.Raised (s.takeLead lead).faults := by
  unfold State.takeLead
  split
  · split
    · exact State.stepTime_raised lead s
    · exact FaultUnit.Raised.refl _
  · split
    · exact FaultUnit.Raised.refl _
    split
    · exact State.stepTime_raised lead (s.withTimebase { s.timebase with
        candidate := s.timebase.candidate.bind (reduceCandidate s.cfg.stepLimit lead) })
    · unfold State.farLead
      split
      · exact FaultUnit.Raised.refl _
      · split
        · exact State.setFlag_raised .timeJump ((s.withTimebase _).flushNotice) (by decide)
        · exact State.setFlag_raised .timeConflict (s.holdCandidate lead) (by decide)

/-- A SCHEDULE raises. -/
theorem State.takeSchedule_raised (f : Frame) (s : State) : s.faults.Raised (s.takeSchedule f).faults := by
  unfold State.takeSchedule
  split
  · exact s.reject_raised _
  split
  · exact s.reject_raised _
  split
  · exact s.reject_raised _
  split
  · exact s.reject_raised _
  · exact s.offer_raised _

/-- A STAGE raises. -/
theorem State.takeStage_raised (f : Frame) (s : State) : s.faults.Raised (s.takeStage f).faults := by
  unfold State.takeStage
  split
  · exact s.reject_raised _
  split
  · exact s.reject_raised _
  · exact FaultUnit.Raised.refl _

/-- A RELEASE raises. -/
theorem State.takeRelease_raised (f : Frame) (s : State) : s.faults.Raised (s.takeRelease f).faults := by
  unfold State.takeRelease
  split
  · exact s.reject_raised _
  split
  · exact FaultUnit.Raised.refl _
  · exact State.offer_raised _ (s.emptySlots _)

/-- A scope of a CANCEL that waits or acts leaves the fault unit. -/
theorem State.handScope_faults (set : Bool) (waits : Option CancelScope) (l : ScopeLeft) (s : State) :
    (s.handScope set waits l).faults = s.faults := by
  obtain ⟨q, v, w, h⟩ := s.handScope_footprint set waits l
  rw [h]
  rfl

/-- A CANCEL raises. -/
theorem State.takeCancel_raised (f : Frame) (s : State) : s.faults.Raised (s.takeCancel f).faults := by
  unfold State.takeCancel
  split
  · exact s.reject_raised _
  · dsimp only
    rw [State.handScope_faults]
    split
    · simp only [State.cancelStaged, State.withStaging_faults, State.handScope_faults]
      exact FaultUnit.Raised.refl _
    · rw [State.handScope_faults]
      exact FaultUnit.Raised.refl _

/-- The end of a tick's coincidence leaves the fault unit. -/
theorem State.finishCancel_faults (s : State) : s.finishCancel.faults = s.faults := by
  obtain ⟨q, v, h⟩ := s.finishCancel_footprint
  rw [h]
  rfl

/-- The judgment of an edge report raises. -/
theorem State.judgeReport_raised (sender : StationId) (r : EdgeReport) (s : State) :
    s.faults.Raised (s.judgeReport sender r).faults := by
  unfold State.judgeReport
  generalize List.finRange 16 = is
  induction is generalizing s with
  | nil => exact FaultUnit.Raised.refl _
  | cons j rest ih =>
    rw [List.foldl_cons]
    refine FaultUnit.Raised.trans ?_ (ih _)
    unfold State.judgeEntry
    split
    · exact FaultUnit.Raised.refl _
    · split
      · split
        · exact s.offer_raised _
        · exact FaultUnit.Raised.refl _
      · exact s.setFlag_raised _ (by decide)

/-- An EDGE payload raises. -/
theorem State.takeEdgeReport_raised (f : Frame) (s : State) : s.faults.Raised (s.takeEdgeReport f).faults := by
  unfold State.takeEdgeReport
  split
  · exact FaultUnit.Raised.refl _
  · exact s.judgeReport_raised _ _

/-- Raising leaves mute as it is (R169). -/
theorem State.mute_of_raised {s t : State} (h : s.faults.Raised t.faults) : t.mute = s.mute := h.clash

end Sys2Proof.Machine
end

