-- ==== Sys2Proof/Laws/Kept.lean ====
section
/-! SUPPORT. One principle for every property that each step keeps: it is enough that the shared operations
keep it, each under the condition in which a command runs it. -/

namespace Sys2Proof.Machine

/-- The receiver is in a carrier episode that it receives: neither quiet nor the station's own. -/
def State.receiving (s : State) : Prop :=
  s.active = true ∧ s.line.episode ≠ .quiet ∧ ∀ t, s.line.episode ≠ .own t

/-- A property that every shared operation keeps, under the condition in which commands run it. -/
structure Kept (P : State → Prop) : Prop where
  pending : ∀ s l, P s → P (s.withPending l)
  choice : ∀ s n, P s → P (s.withChoice n)
  hardReset : ∀ s, P s → P s.hardReset
  restart : ∀ s, P s → s.loader.life = .running → P s.restartNow
  startRead : ∀ s, P s → s.loader.held = true → P s.startRead
  readBad : ∀ s b, P s → s.loader.life = .loading → s.loader.readLeft = some 0 → blockValid b = false →
    P (s.endRead b).enterUnconfigured
  readGood : ∀ s b, P s → s.loader.life = .loading → s.loader.readLeft = some 0 → blockValid b = true →
    P ((s.endRead b).enterJoining b)
  enterRunning : ∀ s l, P s → s.loader.life = .joining → s.loader.joinLeft = some 0 → P (s.enterRunning l)
  carrierJoins : ∀ s, P s → ¬ (s.active = true ∧ s.line.episode = .quiet) → P s.carrierOn
  carrierBegins : ∀ s, P s → s.active = true → s.line.episode = .quiet →
    P (s.carrierOn.withLine { s.line with episode := .searching (32 * s.cfg.bitTicks), round := none })
  delimiter : ∀ s n, P s → s.line.episode = .searching n →
    P (s.withLine { s.line with episode := .captured s.timebase.busTime })
  fragment : ∀ s, P s → s.line.episode = .searching 0 → P (s.withLine { s.line with episode := .fragment })
  mismatch : ∀ s t, P s → s.line.episode = .own t →
    P (s.withLine { s.line with episode := .own { t with driving := false } })
  fixOrder : ∀ s, P s → s.atIfgEnd = true → P s.fixOrder
  nextRound : ∀ s, P s → s.atRoundEnd = true → P s.nextRound
  slotStarts : ∀ s, P s → P s.slotStarts
  complete : ∀ s t, P s → s.line.episode = .own t → t.driving = true → t.left = 0 → P s.completeEnd
  aborted : ∀ s t, P s → s.line.episode = .own t → t.driving = false → P s.abortedEnd
  quietLine : ∀ s, P s → s.active = false → P s.quietLine
  badEnd : ∀ s, P s → s.receiving → P s.badEnd
  frameEnd : ∀ s, P s → s.receiving → P s.frameEnd
  clashEnd : ∀ s, P s → s.receiving → P s.clashEnd
  stages : ∀ s f a, P s → s.active = true → s.line.episode = .quiet → f.sender.val < s.cfg.slots →
    f.sender ≠ s.cfg.ownId → P (s.stages f (s.frameLead f a))
  beacon : ∀ s f, P s → s.loader.life = .running → f.sender.val < s.cfg.slots → f.sender ≠ s.cfg.ownId →
    P (s.takeBeacon f)
  edge : ∀ s f, P s → s.loader.life = .running → P (s.takeEdgeReport f)
  schedule : ∀ s f, P s → s.loader.life = .running → P (s.takeSchedule f)
  stage : ∀ s f, P s → s.loader.life = .running → P (s.takeStage f)
  release : ∀ s f, P s → s.loader.life = .running → P (s.takeRelease f)
  scopeLeft : ∀ s w, P s → P (s.withScopeLeft w)
  cancelScope : ∀ s l, P s → P (s.cancelScope l)
  cancelStaged : ∀ s x set tag, P s → s.loader.life = .running → P (s.cancelStaged x set tag)
  rejectCancel : ∀ s, P s → s.loader.life = .running → P (s.reject .malformed)
  probe : ∀ s f, P s → s.loader.life = .running → P (s.takeProbe f)
  clear : ∀ s f, P s → s.loader.life = .running → P (s.takeClear f)
  sample : ∀ s n l, P s → s.loader.life = .running → P (s.takeSample n l)
  busTick : ∀ s, P s → s.loader.held = false → P s.busTick
  onEnds : ∀ s c, P s → s.channels[c].phase = .on 0 → P (s.updateChannel c (Channel.onEnds (s.gap c)))
  offEnds : ∀ s c, P s → s.channels[c].phase = .off 0 → P (s.updateChannel c (Channel.offEnds (s.gap c)))
  recoverEnds : ∀ s c, P s → s.channels[c].phase = .recover 0 → P (s.updateChannel c Channel.recoverEnds)
  beaconTimer : ∀ s, P s → s.line.beaconTimer = some 0 → P s.startBeacon
  announcedTimer : ∀ s, P s → s.line.announcedTimer = some 0 →
    P (s.withLine { s.line with announcedTimer := none })
  silence : ∀ s x, P s → s.peers[x].presence = .present 0 → P (s.updatePeer x Peer.fallSilent)
  candidate : ∀ s k, P s → s.timebase.candidate = some k → P s.candidateExpires
  lapse : ∀ s c g, P s → s.staging[c] = some g → P (s.lapse c)
  countDown : ∀ s, P s → s.loader.held = false → P s.countDown
  advance : ∀ s, P s → s.dueNext = false → P s.advanceBusTime

variable {P : State → Prop}

/-- A scope of a CANCEL that acts or waits keeps the property. -/
theorem Kept.handScope (K : Kept P) (set : Bool) (waits : Option CancelScope) (l : ScopeLeft) (s : State)
    (h : P s) : P (s.handScope set waits l) := by
  unfold State.handScope
  split
  · split
    · exact K.scopeLeft s _ h
    · exact K.cancelScope s l h
  · exact h

/-- The scope that has waited for its delivery keeps the property. -/
theorem Kept.finishCancel (K : Kept P) (s : State) (h : P s) : P s.finishCancel := by
  unfold State.finishCancel
  split
  · exact h
  · exact K.scopeLeft _ _ (K.cancelScope s _ h)

/-- A CANCEL keeps the property when each of its scopes does. -/
theorem Kept.takeCancel (K : Kept P) (s : State) (f : Frame) (h : P s) (hr : s.loader.life = .running) :
    P (s.takeCancel f) := by
  unfold State.takeCancel
  split
  · exact K.rejectCancel s h hr
  · dsimp only
    have hq := K.handScope ((byteAt f.payload 2).getLsbD 0) (s.waitingScope (byteAt f.payload 2))
      ⟨.queue, f.sender, byteAt f.payload 0, byteAt f.payload 1⟩ s h
    refine K.handScope _ _ _ _ ?_
    split
    · refine K.cancelStaged _ _ _ _ hq ?_
      obtain ⟨q, v, w, hf⟩ := s.handScope_footprint ((byteAt f.payload 2).getLsbD 0)
        (s.waitingScope (byteAt f.payload 2)) ⟨.queue, f.sender, byteAt f.payload 0, byteAt f.payload 1⟩
      rw [hf]
      exact hr
    · exact hq

/-- The payload of a good frame is handed on or not. -/
theorem Kept.handOn (f : Frame) (handed : Frame → State → State) (s : State)
    (h : P s) (hh : s.loader.life = .running → P (handed f s)) : P (s.handOn f handed) := by
  unfold State.handOn
  split
  · rename_i hc
    simp [State.isRunning] at hc
    exact hh hc.1
  · exact h

/-- A frame command keeps the property when the handing of its payload does. -/
theorem Kept.receive (K : Kept P) (f : Frame) (handed : Frame → State → State)
    (hh : ∀ s, P s → s.loader.life = .running → f.sender.val < s.cfg.slots → f.sender ≠ s.cfg.ownId →
      P (handed f s)) (s : State) (h : P s) : P (s.receive f handed) := by
  unfold State.receive State.lineFrameEnd
  split
  · rename_i ha
    split <;> rename_i he
    · rename_i a
      have hr : s.receiving := ⟨ha, by simp [he], by simp [he]⟩
      have hf := K.frameEnd s h hr
      unfold State.goodFrame
      split
      · exact hf
      · rename_i hs
        split
        · exact K.clashEnd s h hr
        · rename_i hne
          have hs' : f.sender.val < s.cfg.slots := by omega
          have hst : P (s.frameEnd.stages f (s.frameLead f a)) :=
            K.stages s.frameEnd f a hf ha rfl hs' hne
          unfold State.peerFrame
          refine Kept.handOn f handed _ hst fun hl => ?_
          obtain ⟨t, k, q, v, u, hfp⟩ := State.takeLead_footprint (s.frameLead f a) s.frameEnd
          have hcfg : (s.frameEnd.stages f (s.frameLead f a)).cfg = s.cfg := by
            simp only [State.stages, hfp]
            rfl
          exact hh _ hst hl (by rw [hcfg]; exact hs') (by rw [hcfg]; exact hne)
    · exact K.badEnd s h ⟨ha, by simp [he], by simp [he]⟩
    · exact K.badEnd s h ⟨ha, by simp [he], by simp [he]⟩
    · exact K.frameEnd s h ⟨ha, by simp [he], by simp [he]⟩
    · exact h
    · exact h
  · rename_i ha
    exact K.quietLine s h (by simpa using ha)

/-- An unjudged, foreign, bad or clashing frame end keeps the property when its judgment does. -/
theorem Kept.lineFrameEnd (K : Kept P) (judged : State → State)
    (hj : ∀ s, P s → s.receiving → P (judged s)) (s : State) (h : P s) :
    P (s.lineFrameEnd fun _ t => judged t) := by
  unfold State.lineFrameEnd
  split
  · rename_i ha
    split <;> rename_i he
    · exact hj s h ⟨ha, by simp [he], by simp [he]⟩
    · exact K.badEnd s h ⟨ha, by simp [he], by simp [he]⟩
    · exact K.badEnd s h ⟨ha, by simp [he], by simp [he]⟩
    · exact K.frameEnd s h ⟨ha, by simp [he], by simp [he]⟩
    · exact h
    · exact h
  · rename_i ha
    exact K.quietLine s h (by simpa using ha)

/-- A RESTART payload keeps the property. -/
theorem Kept.takeRestart (K : Kept P) (f : Frame) (s : State) (h : P s) (hl : s.loader.life = .running) :
    P (s.takeRestart f) := by
  unfold State.takeRestart
  split
  · exact K.restart s h hl
  · exact h

/-- Every command keeps the property. -/
theorem Kept.exec (K : Kept P) (c : Instr) (s t : State) (h : P s)
    (he : Machine.exec c s = .next t) : P t := by
  cases c with
  | reset => cases he; exact K.hardReset s h
  | resetRelease =>
    cases he
    split
    · exact K.startRead s h (by assumption)
    · exact h
  | readEnd b =>
    cases he
    split
    · rename_i hc
      simp [expired] at hc
      unfold State.judgeBlock
      split
      · rename_i hv
        exact K.readGood s b h hc.1 hc.2 hv
      · rename_i hv
        exact K.readBad s b h hc.1 hc.2 (Bool.eq_false_of_not_eq_true hv)
    · exact h
  | joinWindowEnd l =>
    cases he
    split
    · rename_i hc
      simp [expired] at hc
      exact K.enterRunning s l h hc.1 hc.2
    · exact h
  | carrierStart =>
    cases he
    split
    · rename_i hc
      simp at hc
      exact K.carrierBegins s h hc.1 hc.2
    · rename_i hc
      exact K.carrierJoins s h (by simpa using hc)
  | ifgEnd =>
    cases he
    split
    · exact K.fixOrder s h (by assumption)
    · exact h
  | roundEnd =>
    cases he
    split
    · exact K.nextRound s h (by assumption)
    · exact h
  | transmitStart => cases he; exact K.slotStarts s h
  | readbackMismatch =>
    cases he
    split <;> rename_i he
    · exact K.mismatch s _ h he
    all_goals exact h
  | ownComplete =>
    cases he
    split <;> rename_i he
    · split
      · rename_i hc
        exact K.complete s _ h he hc.1 hc.2
      · exact h
    all_goals exact h
  | ownAborted =>
    cases he
    split <;> rename_i he
    · split
      · exact h
      · rename_i hc
        exact K.aborted s _ h he (by simpa using hc)
    all_goals exact h
  | badEpisode => cases he; exact K.lineFrameEnd _ (fun s h hr => K.badEnd s h hr) s h
  | foreignFrame => cases he; exact K.lineFrameEnd _ (fun s h hr => K.frameEnd s h hr) s h
  | clash => cases he; exact K.lineFrameEnd _ (fun s h hr => K.clashEnd s h hr) s h
  | unjudgedFrameEnd =>
    cases he
    split
    · rename_i ha
      split
      · rename_i hu
        exact K.frameEnd s h ⟨ha, by simp [hu], by simp [hu]⟩
      · exact h
    · rename_i ha
      exact K.quietLine s h (by simpa using ha)
  | beacon f => cases he; exact K.receive f _ (fun s h hl h₁ h₂ => K.beacon s f h hl h₁ h₂) s h
  | edge f => cases he; exact K.receive f _ (fun s h hl _ _ => K.edge s f h hl) s h
  | schedule f => cases he; exact K.receive f _ (fun s h hl _ _ => K.schedule s f h hl) s h
  | stage f => cases he; exact K.receive f _ (fun s h hl _ _ => K.stage s f h hl) s h
  | release f => cases he; exact K.receive f _ (fun s h hl _ _ => K.release s f h hl) s h
  | cancelQueue f => cases he; exact K.receive f _ (fun s h hl _ _ => K.takeCancel s f h hl) s h
  | cancelStaged f => cases he; exact K.receive f _ (fun s h hl _ _ => K.takeCancel s f h hl) s h
  | cancelOutput f => cases he; exact K.receive f _ (fun s h hl _ _ => K.takeCancel s f h hl) s h
  | cancelNoScope f => cases he; exact K.receive f _ (fun s h hl _ _ => K.takeCancel s f h hl) s h
  | probeStatus f => cases he; exact K.receive f _ (fun s h hl _ _ => K.probe s f h hl) s h
  | probePeers f => cases he; exact K.receive f _ (fun s h hl _ _ => K.probe s f h hl) s h
  | probeLeadsLo f => cases he; exact K.receive f _ (fun s h hl _ _ => K.probe s f h hl) s h
  | probeLeadsHi f => cases he; exact K.receive f _ (fun s h hl _ _ => K.probe s f h hl) s h
  | probeQueue f => cases he; exact K.receive f _ (fun s h hl _ _ => K.probe s f h hl) s h
  | probeIgnored f => cases he; exact K.receive f _ (fun s h hl _ _ => K.probe s f h hl) s h
  | clear f => cases he; exact K.receive f _ (fun s h hl _ _ => K.clear s f h hl) s h
  | restart f => cases he; exact K.receive f _ (fun s h hl _ _ => K.takeRestart f s h hl) s h
  | report f => cases he; exact K.receive f _ (fun _ h _ _ _ => h) s h
  | unknownKind k f => cases he; exact K.receive f _ (fun _ h _ _ _ => h) s h
  | inputEdge n l =>
    cases he
    split
    · rename_i hc
      simp [State.samplesNow, State.isRunning] at hc
      exact K.sample s n l h hc.1.1
    · exact h
  | dueDelivery =>
    cases he
    split
    · exact h
    · rename_i hc
      exact K.finishCancel _ (K.busTick s h (by simpa using hc))
  | onPhaseExpiry c =>
    cases he
    split
    · exact K.onEnds s c h (by assumption)
    · exact h
  | offPhaseExpiry c =>
    cases he
    split
    · exact K.offEnds s c h (by assumption)
    · exact h
  | recoverExpiry c =>
    cases he
    split
    · exact K.recoverEnds s c h (by assumption)
    · exact h
  | beaconTimerExpiry =>
    cases he
    split
    · rename_i hc
      exact K.beaconTimer s h (by simpa [expired] using hc)
    · exact h
  | announcedTimerExpiry =>
    cases he
    split
    · rename_i hc
      exact K.announcedTimer s h (by simpa [expired] using hc)
    · exact h
  | silenceTimerExpiry x =>
    cases he
    split
    · rename_i hc
      exact K.silence s x h (by simpa [Peer.silenceExpired] using hc)
    · exact h
  | candidateExpiry =>
    cases he
    split
    · rename_i hc
      unfold candidateExpired at hc
      split at hc
      · cases hc
      · rename_i k hk
        exact K.candidate s k h hk
    · exact h
  | stageLapse c =>
    cases he
    split
    · rename_i hc
      unfold lifetimeOver at hc
      split at hc
      · cases hc
      · rename_i g hg
        exact K.lapse s c g h hg
    · exact h
  | inputSample n l =>
    cases he
    split
    · rename_i hc
      simp [State.samplesNow, State.isRunning] at hc
      exact K.sample s n l h hc.1
    · exact h
  | delimiterFound =>
    cases he
    split <;> rename_i he
    · exact K.delimiter s _ h he
    all_goals exact h
  | delimiterSearchEnded =>
    cases he
    split <;> rename_i he
    · split
      · rename_i h0
        exact K.fragment s h (by rw [he, h0])
      · exact h
    all_goals exact h

/-- A tick of the local reference keeps the property. -/
theorem Kept.localTick (K : Kept P) (s : State) (h : P s) : P s.localTick := by
  unfold State.localTick
  split
  · exact h
  · rename_i hh
    have hc := K.countDown s h (by simpa using hh)
    split
    · rename_i hq
      refine K.advance _ hc ?_
      simp [State.quietTick] at hq
      exact hq.2
    · exact K.choice _ _ (K.pending _ _ hc)

/-- Every step keeps the property. -/
theorem Kept.step (K : Kept P) (s t : State) (h : P s) (hs : Machine.step s = .next t) : P t := by
  unfold Machine.step at hs
  split at hs
  · exact K.exec _ _ t (K.pending s _ h) hs
  · cases hs
    exact K.localTick s h

end Sys2Proof.Machine
end

