-- ==== Sys2Proof/Laws/MemoryRead.lean ====
section
/-! SUPPORT. Lemmas of the memory read: the edges of MCK, what a tick shifts in, and the bytes that come of it. -/

namespace Sys2Proof.Machine

/-- MCK is high for 1 to 7 ticks of each cycle. -/
theorem mckHighTicks_range : 1 ≤ mckHighTicks ∧ mckHighTicks ≤ 7 := by
  have := Config.mckHigh.isLt
  unfold mckHighTicks
  omega

/-- MCK rises exactly where its level goes from low to high. -/
theorem mckRisesAt_succ (t : Nat) :
    mckRisesAt (t + 1) = (!mckAt t && mckAt (t + 1)) := by
  have hr := Config.mckRise.isLt
  have hh := mckHighTicks_range
  rw [Bool.eq_iff_iff]
  simp only [mckRisesAt, mckAt, Bool.and_eq_true, Bool.not_eq_true', Bool.and_eq_false_iff,
    decide_eq_true_eq, decide_eq_false_iff_not]
  omega

/-- The bits shifted in grow by one exactly at the rising edges of the data cycles. -/
theorem dataSamples_succ (t : Nat) : dataSamples (t + 1) =
    dataSamples t + if mckRisesAt (t + 1) && decide (24 ≤ (t + 1) / 8) then 1 else 0 := by
  have hr := Config.mckRise.isLt
  simp only [mckRisesAt, dataSamples, Bool.and_eq_true, decide_eq_true_eq, Config.readTicks]
  split <;> omega

/-- At a rising edge of a data cycle the bits shifted in are as many as the data cycles before it. -/
theorem dataSamples_at_rise (t : Nat) (h : mckRisesAt (t + 1) = true) (hc : 24 ≤ (t + 1) / 8) :
    dataSamples t = (t + 1) / 8 - 24 := by
  have hr := Config.mckRise.isLt
  simp only [mckRisesAt, dataSamples, Bool.and_eq_true, decide_eq_true_eq, Config.readTicks] at *
  omega

/-- A tick of a read carries the bits of the memory on. -/
theorem shiftAfter_samples (m : List Host.Cell) (n : Nat) (h : n + 1 ≤ Config.readTicks) :
    shiftAfter m (some n) ((List.range (dataSamples (readElapsed (n + 1)))).map (mdiBit m)) =
      (List.range (dataSamples (readElapsed n))).map (mdiBit m) := by
  have he : readElapsed n = readElapsed (n + 1) + 1 := by unfold readElapsed; omega
  simp only [shiftAfter]
  rw [he, dataSamples_succ]
  split
  · rename_i hc
    simp only [Bool.and_eq_true, decide_eq_true_eq] at hc
    rw [List.range_succ, List.map_append, ← dataSamples_at_rise _ hc.1 hc.2]
    rfl
  · rfl

/-- The end of a read shifts nothing in. -/
theorem shiftAfter_end (m : List Host.Cell) (shift : List Bool) : shiftAfter m (some 0) shift = shift := by
  have : mckRisesAt (readElapsed 0) = false := by simp [mckRisesAt, readElapsed]
  simp [shiftAfter, this]

/-- A whole read shifts in 2,576 bits. -/
theorem dataSamples_end : dataSamples (readElapsed 0) = 2576 := by
  have hr := Config.mckRise.isLt
  simp only [dataSamples, readElapsed, Config.readTicks]
  omega

/-- The bits of a byte make the byte. -/
theorem byteOfBits_byteBits (b : Byte) : byteOfBits (byteBits b) = b := by
  revert b
  decide +kernel

/-- The bits of some bytes make the bytes. -/
theorem bytesOfBits_flatMap (l : List Byte) : bytesOfBits (l.flatMap byteBits) = some l := by
  induction l with
  | nil => rfl
  | cons b rest ih =>
    have hb := byteOfBits_byteBits b
    simp only [byteBits] at hb
    simp only [List.flatMap_cons, byteBits, List.cons_append, List.nil_append, bytesOfBits]
    rw [ih, hb]
    rfl

/-- The data bits of the first n bytes of a memory are the bits of these bytes. -/
theorem mdiBits_bytes (m : List Host.Cell) (n : Nat) :
    (List.range (8 * n)).map (mdiBit m) = ((List.range n).map (memoryByte m)).flatMap byteBits := by
  induction n with
  | zero => rfl
  | succ k ih =>
    have hb : (List.range 8).map (fun i => mdiBit m (8 * k + i)) = byteBits (memoryByte m k) := by
      have hd : ∀ i, i < 8 → mdiBit m (8 * k + i) = (memoryByte m k).getLsbD (7 - i) := by
        intro i hi
        unfold mdiBit
        rw [show (8 * k + i) / 8 = k by omega, show (8 * k + i) % 8 = i by omega]
      have h0 : mdiBit m (8 * k) = (memoryByte m k).getLsbD 7 := hd 0 (by omega)
      simp [List.range_succ, hd, byteBits, h0]
    rw [show 8 * (k + 1) = 8 * k + 8 by ring, List.range_add, List.map_append, ih, List.map_map,
      List.range_succ (n := k), List.map_append, List.flatMap_append]
    simpa [Function.comp_def] using hb

/-- A whole read of a memory makes its block. -/
theorem shiftedBytes_block (m : List Host.Cell) :
    shiftedBytes ((List.range 2576).map (mdiBit m)) = memoryBlock m := by
  unfold shiftedBytes
  rw [show 2576 = 8 * 322 from rfl, mdiBits_bytes, bytesOfBits_flatMap]
  rfl

end Sys2Proof.Machine
end

