-- ==== Sys2Proof/WellFormed.lean ====
section
/-! DEFINITION. Which commands are well formed: the operand ranges that the spec gives the events and
that the operands' types do not already say. -/

namespace Sys2Proof

/-- Byte 9 of a good frame is at most 64 (R25 condition 4, R23). -/
def Frame.wellFormed (f : Frame) : Bool := decide (f.payload.length ≤ 64)

/-- A CANCEL of the right length carries the scope bit its row names (R32); a CANCEL of another
length is malformed whatever its bytes (R31). -/
def Frame.cancelScopeIs (f : Frame) (test : Byte → Bool) : Bool :=
  decide (f.payload.length ≠ 3) || test (f.payload.getD 2 0)

/-- A PROBE of the right length carries the selector its row names (R171). -/
def Frame.selectorIs (f : Frame) (code : Byte) : Bool :=
  decide (f.payload.length ≠ 2) || decide (f.payload.getD 1 0 = code)

/-- The well-formedness check of a command. -/
def Instr.wellFormed : Instr → Bool
  | .reset => true
  | .resetRelease => true
  | .readEnd block => decide (block.length = 322)
  | .joinWindowEnd _ => true
  | .carrierStart => true
  | .ifgEnd => true
  | .roundEnd => true
  | .transmitStart => true
  | .readbackMismatch => true
  | .ownComplete => true
  | .ownAborted => true
  | .badEpisode => true
  | .foreignFrame => true
  | .clash => true
  | .unjudgedFrameEnd => true
  | .beacon f => f.wellFormed
  | .edge f => f.wellFormed
  | .schedule f => f.wellFormed
  | .stage f => f.wellFormed
  | .release f => f.wellFormed
  | .cancelQueue f => f.wellFormed && f.cancelScopeIs (fun b => b.getLsbD 0)
  | .cancelStaged f => f.wellFormed && f.cancelScopeIs (fun b => b.getLsbD 1)
  | .cancelOutput f => f.wellFormed && f.cancelScopeIs (fun b => b.getLsbD 2)
  | .cancelNoScope f =>
      f.wellFormed && f.cancelScopeIs (fun b => !b.getLsbD 0 && !b.getLsbD 1 && !b.getLsbD 2)
  | .probeStatus f => f.wellFormed && f.selectorIs 1
  | .probePeers f => f.wellFormed && f.selectorIs 2
  | .probeLeadsLo f => f.wellFormed && f.selectorIs 3
  | .probeLeadsHi f => f.wellFormed && f.selectorIs 4
  | .probeQueue f => f.wellFormed && f.selectorIs 5
  | .probeIgnored f => f.wellFormed
  | .clear f => f.wellFormed
  | .restart f => f.wellFormed
  | .report f => f.wellFormed
  | .unknownKind kind f => f.wellFormed && (decide (kind = 0) || decide (11 ≤ kind.toNat))
  | .inputEdge _ _ => true
  | .dueDelivery => true
  | .onPhaseExpiry _ => true
  | .offPhaseExpiry _ => true
  | .recoverExpiry _ => true
  | .beaconTimerExpiry => true
  | .announcedTimerExpiry => true
  | .silenceTimerExpiry _ => true
  | .candidateExpiry => true
  | .stageLapse _ => true
  | .inputSample _ _ => true
  | .delimiterFound => true
  | .delimiterSearchEnded => true

end Sys2Proof
end

