-- ==== Sys2Proof/Tests/Slice0.lean ====
section
/-! SUPPORT. The model's own tests: terms that the well-formedness check refuses, values the spec works out, and
for every statement a state and operands that meet its hypotheses. -/

namespace Sys2Proof.Tests
open Sys2Proof Sys2Proof.Machine

-- One theorem after another: side by side, the kernel evaluations below wait in many threads at once.
set_option Elab.async false

/-! ### The states the tests start from -/

/-- Whether a command leaves a next state of which a test holds. -/
def after (c : Instr) (s : State) (p : State → Bool) : Bool :=
  match exec c s with
  | .next t => p t
  | .fault _ => false
  | .refused _ => false

/-- Station 5 of a ring of 8, in group 2, at 5 Mbit/s, line delay 12, slack 8, late window 1,000; every channel
enabled with the gap 5 but channel 7. -/
def values : Params where
  ownId := 5
  slots := 8
  groups := 0x0004
  rate := 2
  ifg := 16
  slotTime := 10
  lineDelay := 12
  slack := 8
  stepLimit := 1024000
  confirmWindow := 2048000
  lateWindow := 1000
  beaconInterval := 102400
  silenceFactor := 3
  joinWindow := 307200
  stagingLifetime := 40960000
  inputs := Vector.replicate 4 ⟨.both, 4, 2⟩
  channels := (Vector.replicate 8 ⟨true, false, 5⟩).set 7 ⟨false, false, 5⟩

/-- A RUNNING station on a quiet line at bus time 2,000,000. -/
def running : State :=
  { State.reset with
    loader := ⟨.running, false, none, [], [], none⟩
    cfg := values
    timebase := ⟨2000000, .synced, none⟩
    line := ⟨.quiet, [], 0, some 100, none, some 2, .normal, some ⟨0, none⟩⟩ }

/-- Every family of the running station stands at its reset value. -/
theorem running_rests :
    (∀ c : ChannelId, running.channels[c] = Channel.atReset) ∧ (∀ c : ChannelId, running.staging[c] = none) ∧
    (∀ i : BindingId, running.bindings[i] = none) ∧ (∀ x : StationId, running.peers[x] = Peer.atReset) := by
  decide +kernel

/-- The same station, the arrival of a frame captured at bus time 2,000,000. -/
def hearing : State :=
  { running with
    ext := { running.ext with carrier := true }
    line := { running.line with episode := .captured 2000000, round := none } }

/-- A frame from station 3 to all, its lead 0 at that station. -/
def toAll (payload : List Byte) : Frame := ⟨3, .all, 0, 1999988, payload⟩

/-- A frame from station 3 to station 5, its lead 0. -/
def toFive (payload : List Byte) : Frame := ⟨3, .station, 5, 1999988, payload⟩

/-- Nine bytes of a PULSE program of width 60. -/
def pulse60 : List Byte := [1, 0, 0, 60, 0, 0, 0, 0, 0]

/-- The PULSE program of width 60. -/
def pulse : Program := ⟨.pulse, 60, 0, 0⟩

/-! ### Terms that are not well formed -/

theorem test_readEnd_needs_322_bytes : (Instr.readEnd (List.replicate 321 0)).wellFormed = false := by decide +kernel
theorem test_payload_at_most_64 :
    (Instr.beacon (toAll (List.replicate 65 0))).wellFormed = false ∧
    (Instr.beacon (toAll (List.replicate 64 0))).wellFormed = true := by decide
theorem test_cancel_rows_need_their_scope :
    (Instr.cancelQueue (toAll [1, 0, 6])).wellFormed = false ∧
    (Instr.cancelStaged (toAll [1, 0, 5])).wellFormed = false ∧
    (Instr.cancelOutput (toAll [1, 0, 3])).wellFormed = false ∧
    (Instr.cancelNoScope (toAll [1, 0, 4])).wellFormed = false := by decide
theorem test_probe_rows_need_their_selector :
    (Instr.probeStatus (toFive [9, 2])).wellFormed = false ∧
    (Instr.probePeers (toFive [9, 1])).wellFormed = false ∧
    (Instr.probeLeadsLo (toFive [9, 4])).wellFormed = false ∧
    (Instr.probeLeadsHi (toFive [9, 3])).wellFormed = false ∧
    (Instr.probeQueue (toFive [9, 0])).wellFormed = false := by decide
theorem test_unknown_kinds :
    (Instr.unknownKind 7 (toAll [])).wellFormed = false ∧
    (Instr.unknownKind 10 (toAll [])).wellFormed = false ∧
    (Instr.unknownKind 11 (toAll [])).wellFormed = true ∧
    (Instr.unknownKind 0 (toAll [])).wellFormed = true := by decide

/-! ### Frames, by the bytes of the spec -/

theorem test_crc_check_value :
    crc16 [0x31, 0x32, 0x33, 0x34, 0x35, 0x36, 0x37, 0x38, 0x39] = 0x29B1 := by decide +kernel
theorem test_frame_header_groups :
    frameBody 3 ⟨9, .groups, 0x0024, 0x0102030405, [0xAA]⟩ =
      [0x34, 0x09, 0x00, 0x24, 0x01, 0x02, 0x03, 0x04, 0x05, 0x01, 0xAA] := by decide
theorem test_frame_header_station :
    frameBody 8 ⟨31, .station, 0x0009, 0, []⟩ = [0x80, 0x1F, 0x00, 0x09, 0, 0, 0, 0, 0, 0] := by decide

/-! ### Where the frames of the statements arrive -/

/-- A frame from station 3 arrives at the listening station. -/
theorem hearing_arrives (f : Frame) (h : f.sender = 3) : Arrives f 2000000 hearing :=
  ⟨rfl, rfl, by rw [h]; decide, by rw [h]; decide⟩

/-- Its payload is handed on when it is meant for the station. -/
theorem hearing_hands (f : Frame) (h : f.sender = 3) (hm : hearing.matchesDest f = true) :
    HandedOn f 2000000 hearing :=
  ⟨hearing_arrives f h, rfl, hm⟩

/-- A frame to all is handed on. -/
theorem toAll_handed (p : List Byte) : HandedOn (toAll p) 2000000 hearing := hearing_hands _ rfl rfl

/-- A frame to station 5 is handed on. -/
theorem toFive_handed (p : List Byte) : HandedOn (toFive p) 2000000 hearing := hearing_hands _ rfl rfl

/-! ### One step -/

theorem witness_StepRunsTheFrontCommand :
    ({ running with pending := [.ifgEnd, .reset] } : State).pending = .ifgEnd :: [.reset] := rfl
theorem witness_WhatNoCommandTouches :
    (∃ t, step running = .next t) ∧ ∃ t, exec .carrierStart running = .next t := ⟨⟨_, rfl⟩, ⟨_, rfl⟩⟩

/-- The beacon timer is about to expire. -/
def beaconNear : State := { running with line := { running.line with beaconTimer := some 1 } }
/-- The next tick ends the IFG. -/
def ifgNear : State := { running with line := { running.line with round := some ⟨63, none⟩ } }
/-- A stored entry on channel 0 that falls due at the given bus time. -/
def entryAt (t : BusTime) : CueEntry := ⟨t, ⟨0, pulse, .message 3, 7⟩, ⟨0, pulse, .message 3, 7⟩⟩
/-- The next tick delivers an entry. -/
def dueNear : State := { running with queue := [entryAt 2000001] }

theorem witness_EmptyQueueIsOneTick :
    (State.reset.pending = [] ∧ State.reset.loader.held = true) ∧
    (running.pending = [] ∧ running.loader.held = false ∧ running.countDown.expiries = [] ∧
      running.countDown.slotMayStart = false ∧ running.countDown.dueNext = false) ∧
    (beaconNear.countDown.expiries = [.beaconTimerExpiry] ∧ dueNear.countDown.dueNext = true ∧
      ifgNear.countDown.slotMayStart = true ∧ .ifgEnd ∈ ifgNear.countDown.expiries) := by decide +kernel

/-- Every kind of timer runs. -/
def busy : State :=
  { running with
    line := { running.line with episode := .searching 1, round := none }
    peers := running.peers.set 3 ⟨.present 1, 0, false, none⟩
    channels := ((running.channels.set 0 ⟨.on 1, some pulse, none, none, false, false⟩).set 1
      ⟨.off 1, some ⟨.train, 1, 2, 0⟩, none, none, false, false⟩).set 2
      ⟨.recover 1, some pulse, none, none, false, false⟩ }
/-- The station sends a frame. -/
def sending (left : Nat) (driving : Bool) (l : List Request) : State :=
  { running with
    ext := { running.ext with carrier := true }
    line := { running.line with episode := .own ⟨[0], driving, left⟩, txList := l, round := none } }

theorem witness_TickCountsEveryTimer :
    (busy.pending = [] ∧ busy.loader.held = false ∧ busy.line.episode = .searching 1 ∧
      busy.peers[3].presence = .present 1 ∧ busy.channels[0].phase = .on 1 ∧
      busy.channels[1].phase = .off 1 ∧ busy.channels[2].phase = .recover 1 ∧ busy.channels[3].phase = .idle) ∧
    (sending 1 true [.beacon]).line.episode = .own ⟨[0], true, 1⟩ ∧ (∃ t, step busy = .next t) ∧
    (20800 : Nat) - (20609 - 1) = 8 * 24 :=
  ⟨by decide, rfl, ⟨_, rfl⟩, rfl⟩

/-- A station at the end of the read of an empty memory. -/
def readEnded : State :=
  { State.reset with
    loader := ⟨.loading, false, some 0, (List.range (dataSamples (readElapsed 0))).map (mdiBit []), [], none⟩ }

theorem witness_TickBringsWhatFallsDue :
    ReadSound readEnded ∧ .readEnd (shiftedBytes readEnded.loader.shift) ∈ readEnded.expiries := by
  refine ⟨⟨fun n h => ?_, fun h => (by cases h)⟩, ?_⟩
  · cases h
    exact ⟨Nat.zero_le _, rfl⟩
  · exact List.mem_append_left _ (List.mem_append_left _ (List.mem_append_left _ (List.mem_append_left _
      (List.mem_append_left _ (List.mem_append_left _ (List.mem_append_left _ (List.mem_append_left _
        (List.mem_append_left _ (List.mem_append_left _ (List.mem_append_left _ (List.mem_singleton.2 rfl)))))))))))
/-- The bits of a block make the block. -/
theorem test_the_bits_of_a_read_make_its_bytes :
    shiftedBytes ((List.replicate 40 [0x6B, 0xC5] : List (List Byte)).flatten.flatMap byteBits) =
      (List.replicate 40 [0x6B, 0xC5]).flatten := by decide +kernel

/-! ### Start and reset -/

/-- A station at the end of its memory read. -/
def reading : State := { State.reset with loader := ⟨.loading, false, some 0, [], [], none⟩ }

/-- A valid block: the values above, binding 0 enabled, binding 1 with the enable bit but no edge. -/
def block : List Byte :=
  [0xC5, 0x3A, 1, 5, 8, 0, 4, 2, 16, 10, 12, 8, 3, 232, 7, 208, 3, 232, 0, 100, 3, 1, 44, 156, 64, 0, 0] ++
    [0x31, 2, 0x31, 2, 0x31, 2, 0x31, 2] ++ [1, 5, 1, 5, 1, 5, 1, 5, 1, 5, 1, 5, 1, 5, 0, 5] ++
    List.replicate 13 0 ++ [0x88, 0xFF, 0x21, 0, 0, 0, 100, 1, 0, 0, 60, 0, 0, 0, 0, 0] ++
    [0x80] ++ List.replicate 239 0 ++ [0x77, 0x66]

theorem witness_ResetHoldsUntilItsRelease :
    State.reset.loader.held = true ∧ running.loader.held = false ∧
    (sending 9 true [.beacon]).line.episode = .own ⟨[0], true, 9⟩ ∧ running.line.episode = .quiet := by decide
/-- A reset in an own transmission ends the carrier of that transmission, and no other. -/
theorem test_reset_ends_the_own_carrier :
    after .reset (sending 9 true [.beacon]) (fun t => !t.ext.carrier) = true ∧
    after .reset hearing (fun t => t.ext.carrier) = true := by decide +kernel
theorem witness_ReadEndJudgesTheGlobalChecks :
    block.length = 322 ∧ reading.loader.life = .loading ∧ reading.loader.readLeft = some 0 := by decide +kernel
set_option maxRecDepth 100000 in
theorem witness_ReadEndOutcome :
    blockValid block = true ∧ blockValid (List.replicate 322 0xFF) = false ∧
    reading.loader.life = .loading ∧ reading.loader.readLeft = some 0 ∧
    ¬(running.loader.life = .loading ∧ running.loader.readLeft = some 0) ∧ reading.ext.carrier = false ∧
    ({ reading with ext := { reading.ext with carrier := true } } : State).ext.carrier = true := by
  decide +kernel
set_option maxRecDepth 100000 in
theorem test_readEnd_loads_the_block :
    after (.readEnd block) reading (fun t => t.cfg == values && t.loader.life == .joining &&
      t.loader.joinLeft == some 307200 && t.flag .bindingRejected && t.bindings[1].isNone &&
      t.bindings[0] == some
        ⟨⟨.any, 0, .rise, 4, 1, 0, 100, pulse⟩, ⟨.any, 0, .rise, 4, 1, 0, 100, pulse⟩⟩) = true := by
  decide +kernel
theorem test_readEnd_absent_memory :
    after (.readEnd (memoryBlock [])) reading (fun t => t.loader.life == .unconfigured && t.faultLine) = true := by
  decide +kernel

/-- A station at the end of its join window. -/
def joined : State :=
  { running with
    loader := ⟨.joining, false, none, [], [], some 0⟩
    timebase := ⟨2000000, .unsynced, none⟩
    line := { running.line with beaconTimer := none } }
/-- The station as it stands, mute. -/
def muted (s : State) : State := { s with faults := { s.faults with flags := flagBit .idClash } }

theorem witness_JoinWindowEndEntersRunning :
    (joined.loader.life = .joining ∧ joined.loader.joinLeft = some 0 ∧ joined.mute = false) ∧
    (muted joined).mute = true ∧
    ¬(running.loader.life = .joining ∧ running.loader.joinLeft = some 0) := by decide
theorem test_join_samples_the_inputs :
    after (.joinWindowEnd 0b0101) joined (fun t => t.inputs[0].stable == some true &&
      t.inputs[1].stable == some false && t.inputs[2].sampleTimer == some 4 && t.line.txList == [.beacon] &&
      t.syncLine) = true := by decide +kernel

/-! ### Carrier, rounds and slots -/

theorem witness_CarrierBeginsTheSearch :
    (running.active = true ∧ running.line.episode = .quiet) ∧ State.reset.active = false ∧
    busy.line.episode = .searching 1 ∧ running.line.episode ≠ .searching 0 ∧
    ({ busy with line := { busy.line with episode := .searching 0 } } : State).line.episode = .searching 0 := by
  decide

/-- The round in progress at this instant with this order. -/
def inRound (elapsed : Nat) (o : Option RoundOrder) : State :=
  { running with line := { running.line with round := some ⟨elapsed, o⟩ } }
/-- The last sender is unknown and rounds are OPEN. -/
def unheard (s : State) : State :=
  { s with line := { s.line with lastSender := none, mode := .openRound } }
/-- The order of an OPEN round of 8. -/
def openOrder : RoundOrder := ⟨.openRound, 7, []⟩

theorem witness_RoundsAreOrderedAndFollowed :
    ((inRound 64 none).line.round = some ⟨64, none⟩ ∧ 64 = values.bitTicks * values.ifg ∧
      (inRound 64 none).line.mode = .normal ∧ (inRound 64 none).line.lastSender = some 2 ∧
      (unheard (inRound 64 none)).line.mode = .openRound) ∧
    (∀ e, (inRound 63 none).line.round = some ⟨e, none⟩ → e ≠ values.bitTicks * values.ifg) ∧
    ((inRound 384 (some openOrder)).line.round = some ⟨384, some openOrder⟩ ∧
      384 = values.slotStart (slotCount values.slots openOrder) ∧
      (unheard (inRound 384 (some openOrder))).line.lastSender = none) ∧
    (∀ e o, (inRound 383 (some openOrder)).line.round = some ⟨e, some o⟩ →
      e ≠ values.slotStart (slotCount values.slots o)) := by
  refine ⟨by decide, ?_, by decide, ?_⟩
  · intro e h; cases h; decide
  · intro e o h; cases h; decide

/-- A station that hears stations 3 and 6 and is announced. -/
def heard : State :=
  { running with
    line := { running.line with announcedTimer := some 9 }
    peers := (running.peers.set 3 ⟨.present 9, 0, false, none⟩).set 6 ⟨.present 9, 0, false, none⟩ }

theorem witness_NormalRoundSlots :
    (PeersSound heard ∧ heard.active = true ∧ (2 : StationId).val < heard.cfg.slots) ∧
    (32 ≤ 32 ∧ 31 < 32 ∧ ([0, 31] : List StationId).Nodup ∧ (∀ x ∈ ([0, 31] : List StationId), x.val < 32) ∧
      ([0, 31] : List StationId)[1]? = some 31 ∧ (5 : StationId) ∉ ([0, 31] : List StationId)) := by
  refine ⟨⟨⟨by decide, by decide, by decide, by decide +kernel⟩, by decide, by decide⟩, by decide⟩
theorem test_compact_list_by_position : heard.compactList 2 = [3, 5, 6] ∧ heard.compactList 4 = [5, 6, 3] := by
  decide +kernel

theorem witness_OpenRoundSlots :
    (unheard { running with cfg := { values with slots := 1 } }).line.mode = .openRound ∧
    (unheard { running with cfg := { values with slots := 32 } }).line.mode = .openRound ∧
    1 ≤ 1 ∧ 32 ≤ 32 ∧ (0 : StationId).val < 1 ∧ (31 : StationId).val < 32 := by decide

/-! ### The station's own transmission -/

/-- A capture. -/
def capture : Capture := ⟨1999000, true, 4, false⟩
/-- A snapshot of a PROBE from station 3. -/
def snapshot : Snapshot := ⟨9, 3, .queue, [0]⟩
/-- The station with this head of its transmit list, its capture slot 1 and its latch full. -/
def asking (s : State) (l : List Request) : State :=
  { s with
    line := { s.line with txList := l }
    inputs := s.inputs.set 1 { s.inputs[1] with slot := some ⟨capture, false⟩ }
    faults := { s.faults with latch := some snapshot } }
/-- The station at the start of its slot of an OPEN round. -/
def atSlot : State := inRound 264 (some openOrder)

theorem witness_TransmitStartSendsTheHead :
    (atSlot.loader.life = .running ∧ atSlot.mute = false ∧ atSlot.line.round = some
        ⟨values.bitTicks * (values.ifg + slotOf values.slots openOrder values.ownId * values.slotTime),
          some openOrder⟩ ∧
      (asking atSlot [.edge 1]).line.txList = .edge 1 :: [] ∧
      (asking atSlot [.edge 1]).inputs[1].slot = some ⟨capture, false⟩ ∧
      (asking atSlot [.report]).faults.latch = some snapshot) ∧
    (joined.loader.life ≠ .running ∧ (muted atSlot).mute = true ∧ atSlot.line.txList = [] ∧
      hearing.line.round = none ∧ (inRound 265 (some openOrder)).line.round = some ⟨265, some openOrder⟩ ∧
      265 ≠ values.bitTicks * (values.ifg + slotOf values.slots openOrder values.ownId * values.slotTime)) := by
  decide +kernel
theorem test_an_edge_frame_is_sent :
    after .transmitStart (asking atSlot [.edge 1]) (fun t =>
      t.line.episode == .own ⟨frameBytes 2 ⟨5, .all, 0, 2000096, [0x60, 4, 0, 0, 0x1E, 0x80, 0x98]⟩, true,
        4 * (24 + 8 * 19 + 2)⟩ &&
      t.inputs[1].slot == some ⟨capture, true⟩ && t.ltxe) = true := by decide +kernel

theorem witness_MismatchStopsDriving :
    (sending 1 true [.beacon]).line.episode = .own ⟨[0], true, 1⟩ ∧ running.line.episode = .quiet := by decide
theorem witness_OwnFrameCompletes :
    (sending 0 true [.beacon]).line.episode = .own ⟨[0], true, 0⟩ ∧
    (asking (sending 0 true []) [.report, .beacon]).line.txList = .report :: [.beacon] ∧
    ((asking (sending 0 true []) [.edge 1]).line.txList = .edge 1 :: [] ∧
      (asking (sending 0 true []) [.edge 1]).inputs[1].followOn = none) ∧
    (.edge 1 ∉ ([.beacon] : List Request) ∧
      (running.inputs.set 1 { running.inputs[1] with followOn := some capture })[1].followOn = some capture ∧
      (sending 0 true []).loader.life = .running ∧ (sending 0 true []).mute = false) := by decide
theorem witness_OwnFrameCompletes_otherwise :
    (∀ x, (sending 0 false []).line.episode = .own x → x.driving = false ∨ x.left ≠ 0) ∧
    (∀ x, (sending 9 true []).line.episode = .own x → x.driving = false ∨ x.left ≠ 0) ∧
    (∀ x, running.line.episode = .own x → x.driving = false ∨ x.left ≠ 0) :=
  ⟨fun _ h => by cases h; exact Or.inl rfl, fun _ h => by cases h; exact Or.inr (by decide), fun _ h => by cases h⟩
theorem test_a_report_withdraws_the_beacon :
    after .ownComplete (asking (sending 0 true []) [.report, .beacon]) (fun t =>
      t.line.txList == [] && t.faults.latch == none && t.line.announcedTimer == some 307200 &&
      t.line.lastSender == some 5) = true := by decide +kernel
theorem witness_OwnAbortRetriesOrDrops :
    ((sending 9 false [.beacon]).line.episode = .own ⟨[0], false, 9⟩ ∧
      (sending 9 false [.beacon]).line.txList = .beacon :: [] ∧ 6 < 7 ∧ 7 ≤ 7) ∧
    ((asking (sending 9 false []) [.edge 1]).inputs[1].followOn = none ∧
      (running.inputs.set 1 { running.inputs[1] with followOn := some capture })[1].followOn = some capture ∧
      (sending 9 false []).loader.life = .running ∧ (sending 9 false []).mute = false) := by decide
theorem witness_OwnAbortRetriesOrDrops_otherwise :
    (∀ x, (sending 0 true []).line.episode = .own x → x.driving = true) ∧
    (∀ x, running.line.episode = .own x → x.driving = true) :=
  ⟨fun _ h => by cases h; rfl, fun _ h => by cases h⟩
theorem test_the_eighth_attempt_drops :
    after .ownAborted
      { sending 9 false [.beacon, .report] with
        line := { (sending 9 false [.beacon, .report]).line with attempts := 7 } }
      (fun t => t.line.txList == [.report] && t.line.attempts == 0 && t.flag .txDropped &&
        t.line.mode == .openRound) = true := by decide +kernel

/-! ### Episodes that bring no frame from a peer -/

theorem witness_BadEpisodeOpensTheRound :
    (hearing.active = true ∧ hearing.line.episode = .captured 2000000) ∧
    (busy.active = true ∧ busy.line.episode = .searching 1) ∧ (frameOf (.beacon (toAll []))).isSome = true := by
  decide
theorem witness_ForeignFramesOnlyAnchor :
    hearing.active = true ∧ hearing.line.episode = .captured 2000000 ∧
    frameOf (.clear ⟨8, .all, 0, 0, [0, 0]⟩) = some (9, ⟨8, .all, 0, 0, [0, 0]⟩) ∧
    hearing.cfg.slots ≤ (8 : StationId).val := by decide
theorem witness_ClashEntersMute :
    hearing.active = true ∧ hearing.line.episode = .captured 2000000 ∧ hearing.mute = false ∧
    (muted hearing).mute = true ∧ (muted hearing).line.episode = .captured 2000000 ∧
    frameOf (.report ⟨5, .all, 0, 0, []⟩) = some (8, ⟨5, .all, 0, 0, []⟩) ∧
    (5 : StationId) = hearing.cfg.ownId ∧ (5 : StationId).val < hearing.cfg.slots := by decide
theorem witness_UnreceivedEpisodesAreNotJudged :
    (({ hearing with line := { hearing.line with episode := .unjudged } } : State).active = true ∧
      ({ hearing with line := { hearing.line with episode := .unjudged } } : State).line.episode = .unjudged) ∧
    ((sending 9 true []).active = true ∧ (sending 9 true []).line.episode = .own ⟨[0], true, 9⟩ ∧
      running.active = true ∧ running.line.episode = .quiet) ∧
    State.reset.active = false := by decide

/-! ### The arrival of a good frame from a peer -/

theorem witness_UnhandedFramesServeTheStages :
    (frameOf (.release (toFive [7])) = some (5, toFive [7]) ∧
      Arrives (toFive [7]) 2000000 hearing ∧
      hearing.matchesDest ⟨3, .station, 6, 1999988, [7]⟩ = false) ∧
    (Arrives (toAll []) 2000000 { hearing with loader := ⟨.joining, false, none, [], [], some 9⟩ } ∧
      ({ hearing with loader := ⟨.joining, false, none, [], [], some 9⟩ } : State).loader.life ≠ .running) :=
  ⟨⟨rfl, hearing_arrives _ rfl, by decide⟩, ⟨rfl, rfl, by decide, by decide⟩, by decide⟩
theorem witness_SmallAndFarLeads :
    (joined.timebase.sync = .unsynced ∧ (0 : Int) ≤ 0) ∧
    (running.timebase.sync = .synced ∧ (8 : Int) ≤ running.cfg.slack ∧ (running.cfg.slack : Int) < 1024001 ∧
      (running.cfg.stepLimit : Int) < 1024001 ∧ running.timebase.candidate = none) ∧
    (|(1024001 : Int) - 2048001| ≤ running.cfg.stepLimit ∧
      (running.cfg.stepLimit : Int) < |(1024001 : Int) - 2048002|) ∧
    (∃ k, ({ running with timebase := ⟨2000000, .synced, some ⟨2048001, 5⟩⟩ } : State).timebase.candidate =
      some k) := ⟨by decide, by decide, by decide, ⟨_, rfl⟩⟩
theorem witness_StepsMoveTimeAndDeliver :
    (joined.timebase.sync = .unsynced ∧ (0 : Int) < 1) ∧
    (running.timebase.sync = .synced ∧ (running.cfg.slack : Int) < 9 ∧ (1024000 : Int) ≤ running.cfg.stepLimit) := by
  decide
/-- Section 3.13's step: an entry that the step passes fires late and one that it reaches fires on time. -/
theorem test_a_step_under_the_queue :
    (let t := ({ running with queue := [entryAt 2000012, { entryAt 2000020 with
        content := ⟨1, pulse, .binding 6, 0⟩, check := ⟨1, pulse, .binding 6, 0⟩ }, entryAt 2000021] } :
        State).takeLead 20;
      t.timebase.busTime == 2000020 && t.channels[0].late && !t.channels[1].late && t.flag .lateFire &&
        t.queue == [entryAt 2000021]) = true := by decide +kernel
theorem witness_DestinationFilter :
    ((toFive []).destMode = .station ∧ 32 ≤ (32 : BitVec 16).toNat) ∧
    ((⟨3, .groups, 0, 0, []⟩ : Frame).destMode = .groups ∧ (⟨3, .groups, 0, 0, []⟩ : Frame).dest = 0) ∧
    (toAll []).destMode = .all ∧
    (frameOf (.stage ⟨3, .station, 6, 1999988, []⟩) = some (4, ⟨3, .station, 6, 1999988, []⟩) ∧
      Arrives ⟨3, .station, 6, 1999988, []⟩ 2000000 hearing ∧
      hearing.matchesDest ⟨3, .station, 6, 1999988, []⟩ = false) :=
  ⟨by decide, by decide, rfl, rfl, hearing_arrives _ rfl, by decide⟩

/-! ### Payloads that are handed on -/

theorem witness_BeaconRecordsTheSummary :
    HandedOn (toAll [3, 0, 0, 0]) 2000000 hearing ∧ (toAll [3, 0, 0, 0]).payload.length = 4 ∧
    HandedOn (toAll [3, 0, 0, 0, 0]) 2000000 hearing ∧ (toAll [3, 0, 0, 0, 0]).payload.length ≠ 4 :=
  ⟨toAll_handed _, rfl, toAll_handed _, by decide⟩
theorem test_beacon :
    after (.beacon (toAll [3, 0x10, 0x01, 2])) hearing (fun t =>
      t.peers[3] == ⟨.present 307200, 0, false, some ⟨3, 0x1001⟩⟩ && t.line.lastSender == some 3 &&
      t.line.round == some ⟨0, none⟩) = true := by decide +kernel

/-- The binding of the block above. -/
def binding : Binding := ⟨⟨.any, 0, .rise, 4, 1, 0, 100, pulse⟩, ⟨.any, 0, .rise, 4, 1, 0, 100, pulse⟩⟩
/-- An EDGE payload of TIN0, rising, with this count, captured at bus time 2,000,000. -/
def edgePayloadOf (count : Byte) : List Byte := [0x20, count, 0, 0, 0x1E, 0x84, 0x80]

theorem witness_EdgeIsJudgedByTheBindings :
    HandedOn (toAll (edgePayloadOf 5)) 2000000 hearing ∧ (toAll (edgePayloadOf 5)).payload.length = 7 ∧
    HandedOn (toAll []) 2000000 hearing ∧ (toAll []).payload.length ≠ 7 ∧
    running.bindings[15] = none ∧ (running.bindings.set 0 (some binding))[0] = some binding ∧
    binding.parity = binding.content ∧ binding.parityHolds = true :=
  ⟨toAll_handed _, rfl, toAll_handed _, by decide, rfl, rfl, rfl, by decide⟩
theorem test_dividers_select_by_the_count :
    after (.edge (toAll (edgePayloadOf 5))) { hearing with bindings := hearing.bindings.set 0 (some binding) }
      (fun t => t.queue == [⟨2000100, ⟨0, pulse, .binding 0, 0⟩, ⟨0, pulse, .binding 0, 0⟩⟩]) = true ∧
    after (.edge (toAll (edgePayloadOf 6))) { hearing with bindings := hearing.bindings.set 0 (some binding) }
      (fun t => t.queue == []) = true := by decide +kernel

/-- A firing on channel 1 with this tag and fire time. -/
def firing (t : BusTime) (tag : Byte) : Firing := ⟨t, ⟨1, pulse, .message 3, tag⟩⟩
/-- A queue of n entries of other stations' messages. -/
def stored (n : Nat) : List CueEntry :=
  (List.range n).map fun i => ⟨2000500, ⟨2, pulse, .binding (Fin.ofNat 16 i), 0⟩, ⟨2, pulse, .binding (Fin.ofNat 16 i), 0⟩⟩

theorem witness_OfferIsDecidedWhole :
    ([firing 1999000 1, firing 2149483649 2] = [firing 1999000 1] ++ firing 2149483649 2 :: [] ∧
      -1000 ≤ signedDiff (firing 1999000 1).fireTime 2000000 ∧
      2 ^ 31 < signedDiff (firing 2149483649 2).fireTime 2000000 ∧
      signedDiff (firing 2149483648 2).fireTime 2000000 ≤ 2 ^ 31) ∧
    signedDiff (firing 1998999 1).fireTime 2000000 < -1000 ∧
    (32 < [firing 2000001 1].length + (stored 32).length ∧ [firing 2000001 1].length + (stored 31).length ≤ 32) ∧
    ([firing 2000000 1].any fun x => decide (signedDiff x.fireTime 2000000 < 0)) = false ∧
    ([firing 1999999 1].any fun x => decide (signedDiff x.fireTime 2000000 < 0)) = true := by decide +kernel
/-- Section 3.12: in a full queue an offer that replaces needs no free entry, any other is refused. -/
theorem test_replacement_in_a_full_queue :
    (let full : State := { running with queue := stored 31 ++ [⟨2000600, (firing 0 4).content, (firing 0 4).content⟩] };
      ((full.offer [firing 2000700 4]).queue ==
        stored 31 ++ [⟨2000700, (firing 0 4).content, (firing 0 4).content⟩]) &&
      (full.offer [firing 2000700 5]).flag .queueFull &&
      ((full.offer [firing 2000700 5]).queue == full.queue)) = true := by decide +kernel
theorem witness_EntriesAreInsertedInOrder :
    [entryAt 2000100, entryAt 2000200].Pairwise
      (fun a b => later a.fireTime 2000150 = true → later b.fireTime 2000150 = true) := by decide
theorem test_equal_fire_times_keep_their_order :
    insertAll [firing 2000100 5] [entryAt 2000100, entryAt 2000200] =
      [entryAt 2000100, ⟨2000100, (firing 0 5).content, (firing 0 5).content⟩, entryAt 2000200] := by
  decide +kernel

/-- A SCHEDULE payload for a channel set, in bus-time mode at this low byte of 2,000,xxx. -/
def scheduleAt (set low : Byte) (program : List Byte) : List Byte :=
  [set, 7, 0, 0, 0, 0x1E, 0x84, low] ++ program

theorem witness_ScheduleIsValidatedInOrder :
    HandedOn (toAll (scheduleAt 1 0xE4 pulse60)) 2000000 hearing ∧
    ((scheduleAt 1 0xE4 pulse60).length = 17 ∧ byteAt (scheduleAt 1 0xE4 pulse60) 2 = 0 ∧
      (∀ c : ChannelId, (byteAt (scheduleAt 0x7F 0xE4 pulse60) 0).getLsbD c.val = true →
        hearing.cfg.channels[c].enabled = true) ∧
      ¬(∀ c : ChannelId, (byteAt (scheduleAt 0x80 0xE4 pulse60) 0).getLsbD c.val = true →
        hearing.cfg.channels[c].enabled = true) ∧
      (rawProgramAt (scheduleAt 1 0xE4 pulse60) 8).judge = some pulse ∧
      (rawProgramAt (scheduleAt 1 0xE4 (List.replicate 9 0)) 8).judge = none) ∧
    signedDiff (2000000 + 2147483649) 2000000 = 2 ^ 31 + 1 ∧ signedDiff (2000000 - 1001) 2000000 = -1001 :=
  ⟨toAll_handed _, by decide +kernel, by decide +kernel⟩
theorem test_schedule :
    after (.schedule (toAll (scheduleAt 3 0xE4 pulse60))) hearing
      (fun t => t.queue == [⟨2000100, ⟨0, pulse, .message 3, 7⟩, ⟨0, pulse, .message 3, 7⟩⟩,
        ⟨2000100, ⟨1, pulse, .message 3, 7⟩, ⟨1, pulse, .message 3, 7⟩⟩]) = true := by decide +kernel
theorem test_schedule_refusals :
    after (.schedule (toAll (scheduleAt 0x80 0xE4 pulse60))) hearing
      (fun t => t.faults.reason == .badChannel && t.flag .cueRejected) = true ∧
    after (.schedule (toAll (scheduleAt 1 0xE4 (List.replicate 9 0)))) hearing
      (fun t => t.faults.reason == .badProgram) = true := by decide +kernel

/-- A STAGE payload for a channel set with this tag and offset byte. -/
def stageOf (set tag low : Byte) : List Byte := [set, tag, 0, 0, 0, low] ++ pulse60
/-- The staged firing of station 3 with tag 9. -/
def staged : Staged := ⟨3, 9, 50, pulse, 40960000⟩
/-- Slots 0 and 2 filled with it, slot 1 with another tag. -/
def full : State :=
  { hearing with
    staging := ((hearing.staging.set 0 (some staged)).set 1 (some { staged with tag := 8 })).set 2
      (some { staged with stager := 4 }) }

theorem witness_StageFillsItsSlots :
    HandedOn (toAll (stageOf 3 9 50)) 2000000 hearing ∧ (stageOf 3 9 50).length = 15 ∧
    (rawProgramAt (stageOf 3 9 50) 6).judge = some pulse ∧ byteAt (stageOf 3 9 50) 1 ≠ 0 ∧
    byteAt (stageOf 3 0 50) 1 = 0 ∧ (field32 [0, 9, 0x80, 0, 0, 0] 2).toNat ≤ 2 ^ 31 ∧
    2 ^ 31 < (field32 [0, 9, 0x80, 0, 0, 1] 2).toNat :=
  ⟨toAll_handed _, by decide +kernel⟩
theorem test_stage :
    after (.stage (toAll (stageOf 3 9 50))) hearing (fun t => t.staging[0] == some staged &&
      t.staging[1] == some staged && t.staging[2] == none) = true := by decide +kernel
theorem witness_ReleaseOffersTheTaggedSlots :
    HandedOn (toAll [9]) 2000000 full ∧ (toAll [9]).payload.length = 1 ∧
    full.staging[0] = some staged ∧ staged.tag = byteAt [9] 0 :=
  ⟨⟨⟨rfl, rfl, by decide, by decide⟩, rfl, rfl⟩, rfl, rfl, rfl⟩
theorem test_release :
    after (.release (toAll [9])) full (fun t =>
      t.queue == [⟨2000038, ⟨0, pulse, .message 3, 9⟩, ⟨0, pulse, .message 3, 9⟩⟩,
        ⟨2000038, ⟨2, pulse, .message 4, 9⟩, ⟨2, pulse, .message 4, 9⟩⟩] &&
      t.staging[0] == none && t.staging[1].isSome && t.staging[2] == none) = true := by decide +kernel
theorem witness_CancelActsByItsScopes :
    HandedOn (toAll [7, 9, 2]) 2000000 full ∧ (toAll [7, 9, 2]).payload.length = 3 ∧
    HandedOn (toAll [7, 9]) 2000000 full ∧ (toAll [7, 9]).payload.length ≠ 3 ∧
    (HandedOn (toAll [7, 9, 5]) 2000000 { full with pending := [.dueDelivery] } ∧ full.scopeLeft = none ∧
      (5 : Byte).getLsbD 0 = true ∧ (5 : Byte).getLsbD 2 = true) :=
  ⟨⟨⟨rfl, rfl, by decide, by decide⟩, rfl, rfl⟩, rfl, ⟨⟨rfl, rfl, by decide, by decide⟩, rfl, rfl⟩, by decide,
    ⟨⟨rfl, rfl, by decide, by decide⟩, rfl, rfl⟩, by decide⟩
theorem test_cancels :
    after (.cancelStaged (toAll [7, 9, 2])) full (fun t =>
      t.staging[0] == none && t.staging[1].isSome && t.staging[2].isSome) = true ∧
    after (.cancelQueue (toAll [1, 0, 1])) { full with queue := [entryAt 2000100] }
      (fun t => t.queue == []) = true ∧
    after (.cancelOutput (toAll [1, 9, 4]))
      { full with channels := full.channels.set 0 ⟨.hold, some ⟨.levelOn, 0, 0, 0⟩, none, none, false, false⟩ }
      (fun t => t.channels[0].phase == .recover 5) = true ∧
    after (.cancelNoScope (toAll [7, 0, 8])) full (fun t => t.staging == full.staging) = true := by
  decide +kernel

theorem witness_ProbeFillsTheLatchOrIsIgnored :
    (Instr.probePeers (toFive [9, 2]) ∈ [Instr.probeStatus (toFive [9, 2]), .probePeers (toFive [9, 2])] ∧
      HandedOn (toFive [9, 2]) 2000000 hearing ∧ (toFive [9, 2]).destMode = .station ∧
      (toFive [9, 2]).payload.length = 2 ∧ byteAt [9, 2] 1 = selectorCode .peers ∧ hearing.mute = false ∧
      hearing.faults.latch = none ∧ Request.report ∉ hearing.line.txList) ∧
    (HandedOn (toAll [9, 1]) 2000000 hearing ∧ (toAll [9, 1]).destMode ≠ .station ∧
      (byteAt [9, 0] 1).toNat = 0 ∧ 5 < (byteAt [9, 6] 1).toNat) :=
  ⟨⟨by decide, toFive_handed _, by decide⟩, toAll_handed _, by decide⟩
theorem test_probe_peers_clears_the_lost_latches :
    after (.probePeers (toFive [9, 2]))
      { hearing with peers := hearing.peers.set 6 ⟨.silent, 0, true, some ⟨3, 0⟩⟩ }
      (fun t => t.peers[6].lost == false && t.line.txList == [.report] &&
        (t.faults.latch.map fun m => (m.probeId, m.prober, m.body[6]?)) == some (9, 3, some 0xB4)) = true := by
  decide +kernel
theorem test_probe_ignored :
    after (.probeIgnored (toFive [9, 6])) hearing (fun t => t.faults.latch == none && t.line.txList == []) = true ∧
    after (.probeStatus (toAll [9, 1])) hearing (fun t => t.faults.latch == none) = true := by decide +kernel
theorem witness_ReportBodyLayouts :
    ChannelsSound running ∧ running.line.txList.length ≤ 5 ∧ running.queue.length ≤ 32 ∧ running.line.lastSender = some 2 ∧
    dueNear.queue[0]? = some (entryAt 2000001) ∧ (entryAt 2000001).content.origin = .message 3 :=
  ⟨fun c => by rw [running_rests.1 c]; exact ⟨⟨rfl, rfl, rfl, rfl⟩, fun _ h => by cases h⟩, by decide⟩
theorem test_status_and_queue_bodies :
    (let b := dueNear.body .status;
      b.length == 33 && b.take 14 == [3, 0, 2, 0, 0, 0, 0, 0, 0, 0, 0x1E, 0x84, 0x80, 1]) = true ∧
    dueNear.body .queue = [1, 0, 0, 0x1E, 0x84, 0x81, 0, 3, 7] := by decide +kernel

theorem witness_ClearEndsFlagsAndMute :
    HandedOn (toAll [2, 0]) 2000000 hearing ∧ (toAll [2, 0]).payload.length = 2 ∧
    ¬(hearing.mute = true ∧ (0x200 : BitVec 13).getLsbD 9 = true) ∧
    HandedOn (toAll [2, 0]) 2000000 (muted hearing) ∧ (muted hearing).mute = true ∧
    ((byteAt [2, 0] 0 ++ byteAt [2, 0] 1 : BitVec 16).setWidth 13).getLsbD 9 = true ∧
    (muted hearing).line.txList = [] :=
  ⟨toAll_handed _, rfl, by decide, ⟨⟨rfl, rfl, by decide, by decide⟩, rfl, rfl⟩, by decide⟩
theorem test_clear_ends_mute :
    after (.clear (toAll [2, 0])) (asking (muted hearing) [])
      (fun t => !t.mute && t.line.txList == [.edge 1, .beacon] && t.line.beaconTimer == some 102400) = true := by
  decide +kernel
theorem witness_RestartKeepsTheFlags :
    HandedOn (toFive []) 2000000 hearing ∧ (toFive []).destMode = .station ∧ (toFive []).payload.length = 0 ∧
    HandedOn (toAll []) 2000000 hearing ∧ (toAll []).destMode ≠ .station :=
  ⟨toFive_handed _, rfl, rfl, toAll_handed _, by decide⟩
theorem test_restart :
    after (.restart (toFive [])) { hearing with faults := ⟨0x204, 0x1FFF, .stale, some snapshot⟩ }
      (fun t => t.faults == ⟨0x004, 0x1FFF, .stale, none⟩ && t.loader.life == .loading &&
        t.loader.readLeft == some 20800 && t.timebase.busTime == 0) = true := by decide +kernel
theorem test_report_and_unknown_kind :
    after (.report (toFive [9, 1])) hearing (fun t => t.line.lastSender == some 3 && t.faults.flags == 0) = true ∧
    after (.unknownKind 15 (toAll [])) hearing (fun t => t.line.lastSender == some 3) = true := by decide +kernel

/-! ### Inputs -/

/-- Input 1 at a sample instant, stable low, with this run. -/
def sampling (r : Option Run) : State :=
  { running with inputs := running.inputs.set 1 ⟨some false, r, 4, none, none, some 0⟩ }

theorem witness_SampleFeedsTheFilter :
    ((sampling none).loader.life = .running ∧ (sampling none).inputs[1].sampleTimer = some 0 ∧
      (sampling none).inputs[1].stable = some (!true) ∧ (sampling none).inputs[1].stable = some false) ∧
    (1 < (sampling none).cfg.inputs[1].count ∧ (sampling (some ⟨1, 9⟩)).inputs[1].run = some ⟨1, 9⟩ ∧
      (sampling (some ⟨1, 9⟩)).cfg.inputs[1].count ≤ 2 ∧ EdgeSelect.rise.selects false = false) ∧
    (({ running with inputs := running.inputs.set 1 { running.inputs[1] with sampleTimer := some 0 } } :
      State).inputs[1].stable = none) ∧ running.inputs[1].sampleTimer ≠ some 0 := by decide
theorem test_a_bounce_is_discarded :
    after (.inputSample 1 true) (sampling none) (fun t => t.inputs[1].run == some ⟨1, 2000000⟩) = true ∧
    after (.inputSample 1 false) (sampling (some ⟨1, 9⟩)) (fun t => t.inputs[1].run == none) = true := by
  decide +kernel
theorem witness_EdgeIsCapturedAndSelfDelivered :
    ((sampling (some ⟨1, 1999996⟩)).loader.life = .running ∧
      (sampling (some ⟨1, 1999996⟩)).inputs[1].sampleTimer = some 0 ∧
      (sampling (some ⟨1, 1999996⟩)).inputs[1].stable = some (!true) ∧
      (sampling (some ⟨1, 1999996⟩)).cfg.inputs[1].count ≤ 1 + 1 ∧ EdgeSelect.both.selects true = true) ∧
    (sampling none).inputs[1].stable = some false ∧
    ((sampling none).inputs[1].stable = some (!true) ∧ (sampling none).inputs[1].run = none ∧
      1 < (sampling none).cfg.inputs[1].count ∧ EdgeSelect.off.selects true = false) ∧
    (joined.loader.life ≠ .running ∧ running.inputs[1].sampleTimer ≠ some 0) := by decide
theorem test_an_edge_is_captured :
    after (.inputEdge 1 true) (sampling (some ⟨1, 1999996⟩))
      (fun t => t.inputs[1].slot == some ⟨⟨1999996, true, 5, false⟩, false⟩ && t.line.txList == [.edge 1] &&
        t.inputs[1].stable == some true) = true := by decide +kernel
theorem witness_CaptureSlotUpdate :
    (running.inputs[1].slot = none ∧ running.loader.life = .running ∧ running.mute = false ∧
      Request.edge 1 ∉ running.line.txList ∧ (muted running).mute = true) ∧
    (asking running []).inputs[1].slot = some ⟨capture, false⟩ ∧
    (running.inputs.set 1 ⟨none, none, 0, some ⟨capture, true⟩, some capture, none⟩)[1].followOn ≠ none := by
  decide

/-! ### The tick of bus time and the channels -/

/-- An entry of a binding for channel 0, due later. -/
def dueLater : CueEntry := ⟨2000100, ⟨0, pulse, .binding 0, 0⟩, ⟨0, pulse, .binding 0, 0⟩⟩
/-- The next tick delivers an entry, and this scope of a CANCEL of channel 0 waits for that delivery. -/
def leaving (x : CancelScope) : State :=
  { running with queue := [entryAt 2000001, dueLater], scopeLeft := some ⟨x, 3, 1, 0⟩ }

theorem witness_TickDeliversTheDueEntries :
    (dueNear.loader.held = false ∧ QueueSound dueNear ∧ dueNear.scopeLeft = none) ∧
    (leaving .queue).scopeLeft = some ⟨.queue, 3, 1, 0⟩ ∧ (leaving .output).scopeLeft = some ⟨.output, 3, 1, 0⟩ ∧
    (leaving .queue).loader.held = false ∧ QueueSound (leaving .queue) ∧
    (leaving .output).loader.held = false ∧ QueueSound (leaving .output) :=
  ⟨⟨rfl, ⟨by decide, by decide, by decide, by decide⟩, rfl⟩, rfl, rfl,
    rfl, ⟨by decide, by decide, by decide, by decide⟩, rfl, ⟨by decide, by decide, by decide, by decide⟩⟩
/-- The two orders of R95 when one scope of a CANCEL waits for the delivery: the firing that slips past OUTPUT
runs, and the one that comes before OUTPUT is stopped on its instant. -/
theorem test_a_firing_slips_between_two_scopes :
    after .dueDelivery (leaving .queue) (fun t => t.queue == [] && t.scopeLeft == none &&
      t.channels[0] == ⟨.on 60, some pulse, none, none, false, false⟩) = true ∧
    after .dueDelivery (leaving .output) (fun t => t.queue == [dueLater] && t.scopeLeft == none &&
      t.channels[0] == ⟨.recover 5, some pulse, none, none, false, false⟩) = true := by decide +kernel
theorem test_due_delivery :
    after .dueDelivery dueNear (fun t => t.timebase.busTime == 2000001 && t.queue == [] &&
      t.channels[0] == ⟨.on 60, some pulse, none, none, false, false⟩) = true := by decide +kernel

/-- Channel 0 in this phase with this program. -/
def chan (ph : Phase) (p : Option Program) (w : Option Waiting) : State :=
  { running with channels := running.channels.set 0 ⟨ph, p, none, w, false, false⟩ }
/-- Programs of the other kinds. -/
def program (k : ProgramKind) : Program := ⟨k, 3, 7, 2⟩

theorem witness_FiringMeetsAChannel :
    (pulse.kind ≠ .levelOn ∧ pulse.kind ≠ .levelOff ∧ running.channels[0].phase = .idle ∧
      (chan (.off 3) (some (program .train)) none).channels[0].phase = .off 3 ∧
      (chan (.on 3) (some pulse) none).channels[0].phase = .on 3) ∧
    (program .levelOn).kind = .levelOn ∧ (program .levelOff).kind = .levelOff ∧
    (chan (.recover 5) (some pulse) none).channels[0].phase = .recover 5 ∧
    (chan .hold (some (program .levelOn)) none).channels[0].phase = .hold := by decide
theorem test_a_square_of_7_has_halves_4_and_3 :
    ((running.deliver 0 (program .square) false).channels[0] ==
      ⟨.on 4, some (program .square), some 2, none, false, false⟩) = true ∧
    after (.onPhaseExpiry 0) (chan (.on 0) (some (program .square)) none)
      (fun t => t.channels[0].phase == .off 3) = true := by decide +kernel
theorem witness_RetrigRestartsOn :
    (program .retrig).kind = .retrig ∧
    (⟨.on 2, some (program .retrig), none, none, false, false⟩ : Channel).phase = .on 2 ∧
    (⟨.recover 2, some (program .retrig), none, none, false, false⟩ : Channel).phase = .recover 2 := by decide
theorem witness_NonLevelFiringEndsAHold :
    (⟨.hold, some (program .levelOn), none, none, true, false⟩ : Channel).phase = .hold ∧
    pulse.kind ≠ .levelOn ∧ pulse.kind ≠ .levelOff := by decide
theorem witness_PhaseExpiries :
    ((chan (.on 0) (some (program .train)) none).channels[0].phase = .on 0 ∧ (some 1).map (· - 1) = some 0 ∧
      (some 2).map (· - 1) ≠ some 0 ∧ (none : Option Nat).map (· - 1) ≠ some 0) ∧
    ((chan (.off 0) (some (program .train)) (some ⟨pulse, false⟩)).channels[0].waiting ≠ none ∧
      (chan (.off 0) (some (program .square)) none).channels[0].phase = .off 0) ∧
    ((chan (.recover 0) (some pulse) none).channels[0].phase = .recover 0 ∧
      (chan (.recover 0) (some pulse) (some ⟨pulse, true⟩)).channels[0].waiting = some ⟨pulse, true⟩) ∧
    running.channels[0].phase ≠ .on 0 := by decide
/-- Section 4.11: a waiting pulse cuts a train at the end of its period. -/
theorem test_a_train_is_cut :
    after (.offPhaseExpiry 0) (chan (.off 0) (some (program .train)) (some ⟨pulse, false⟩))
      (fun t => t.channels[0].phase == .recover 5) = true ∧
    after (.recoverExpiry 0) (chan (.recover 0) (some (program .train)) (some ⟨pulse, true⟩))
      (fun t => t.channels[0] == ⟨.on 60, some pulse, none, none, true, false⟩) = true := by decide +kernel

/-! ### The other timers -/

theorem witness_TimersExpireAtZero :
    (({ running with line := { running.line with beaconTimer := some 0, announcedTimer := some 0 } } :
        State).line.beaconTimer = some 0 ∧ running.line.beaconTimer ≠ some 0 ∧
      running.line.announcedTimer ≠ some 0 ∧ running.mute = false ∧ running.loader.life = .running) ∧
    ((running.peers.set 3 ⟨.present 0, 0, false, none⟩)[3].presence = .present 0 ∧
      heard.peers[3].presence ≠ .present 0) ∧
    ((some (⟨5, 0⟩ : Candidate)) = some ⟨5, 0⟩ ∧ full.staging[0] = some staged ∧ staged.lifetime ≠ 0 ∧
      ({ staged with lifetime := 0 } : Staged).lifetime = 0) := by decide
theorem test_expiries :
    after .beaconTimerExpiry { running with line := { running.line with beaconTimer := some 0 } }
      (fun t => t.line.txList == [.beacon] && t.line.beaconTimer == some 102400) = true ∧
    after (.silenceTimerExpiry 3) { running with peers := running.peers.set 3 ⟨.present 0, 7, false, none⟩ }
      (fun t => t.peers[3] == ⟨.silent, 7, true, none⟩) = true ∧
    after .candidateExpiry { running with timebase := ⟨0, .synced, some ⟨5, 0⟩⟩ }
      (fun t => t.timebase.candidate == none && t.flag .timeConflict) = true ∧
    after (.stageLapse 0) { full with staging := full.staging.set 0 (some { staged with lifetime := 0 }) }
      (fun t => t.staging[0] == none && t.flag .stageLapsed) = true := by decide +kernel

/-! ### Pins and invariants -/

theorem witness_OutputsFollowTheChannels :
    (chan (.on 3) (some pulse) none).tout 0 = some true ∧ running.tout 0 = some false ∧
    State.reset.tout 0 = none ∧ running.loader.life = .running := by decide
theorem witness_FramesReadBack :
    (toAll (List.replicate 64 0)).payload.length ≤ 64 ∧ 32 ≤ 32 ∧
    (lineLevels (frameBytes 5 (toAll [9]))).getLast? = some (byteAt (frameBytes 5 (toAll [9])) 12 |>.getLsbD 0) ∧
    judgeReception ⟨(lineLevels (frameBytes 5 (toAll [9]))).drop 7⟩ = some (5, toAll [9]) ∧
    judgeReception ⟨[]⟩ = none ∧ (8 ≤ (8 : StationId).val ∧ (3 : StationId).val < 8 ∧ (3 : StationId) ≠ 5) ∧
    (∀ i : Fin 25, ∃ before a b rest, lineLevels (frameBytes 5 (toAll [9])) = before ++ a :: b :: rest ∧
      before.length = 2 * i.val) := by
  refine ⟨by decide, by decide, by decide +kernel, by decide +kernel, rfl, by decide,
    fun i => ⟨(lineLevels (frameBytes 5 (toAll [9]))).take (2 * i.val),
    (lineLevels (frameBytes 5 (toAll [9]))).getD (2 * i.val) false,
    (lineLevels (frameBytes 5 (toAll [9]))).getD (2 * i.val + 1) false,
    (lineLevels (frameBytes 5 (toAll [9]))).drop (2 * i.val + 2), ?_⟩⟩
  revert i
  decide +kernel
/-- Each of conditions 4 to 6 of R25 spoils a frame that fails it: a byte too many, a payload length over 64, a
must-zero bit, destination mode 3, the frame check. -/
theorem test_what_makes_a_frame_bad :
    let l := frameBytes 5 (toAll [9])
    let long := frameBytes 5 (toAll (List.replicate 65 9))
    let sealed := fun (b : List Byte) => b ++ bytes16 (crc16 b)
    readFrame l = some (5, toAll [9]) ∧ readFrame (sealed (l.take 11)) = some (5, toAll [9]) ∧
    readFrame (l ++ [0]) = none ∧ readFrame long = none ∧ readFrame (sealed ((l.take 11).set 0 0x59)) = none ∧
    readFrame (sealed ((l.take 11).set 1 0x23)) = none ∧ readFrame (sealed ((l.take 11).set 0 0x5C)) = none ∧
    readFrame (l.set 10 8) = none := by decide +kernel
/-- The levels of a frame heard n half bits late. -/
def late (n : Nat) : Reception := ⟨(lineLevels (frameBytes 5 (toAll [9]))).drop n⟩
theorem test_a_frame_reads_back_16_bits_late :
    receptionCommand 5 8 ⟨(late 32).levels ++ [true, true, true]⟩ = .release (toAll [9]) ∧
    receptionCommand 5 8 (late 33) = .badEpisode ∧
    receptionCommand 3 8 (late 0) = .clash ∧ receptionCommand 5 3 (late 1) = .foreignFrame := by decide +kernel
/-- A bit time without its transition spoils a frame after the delimiter, not in the preamble; and the delimiter
must come within 32 bit times. -/
theorem test_coding_violations :
    receptionCommand 5 8 ⟨((late 0).levels.set 60 true).set 61 true⟩ = .badEpisode ∧
    receptionCommand 5 8 ⟨((late 0).levels.set 6 true).set 7 true⟩ = .release (toAll [9]) ∧
    receptionCommand 5 8 ⟨(late 0).levels.take 16 ++ (late 0).levels⟩ = .release (toAll [9]) ∧
    receptionCommand 5 8 ⟨(late 0).levels.take 18 ++ (late 0).levels⟩ = .badEpisode := by decide +kernel

theorem witness_StepsKeepLifeConduct : ReadSound running ∧ LifeConduct running ∧ ∃ t, step running = .next t :=
  ⟨⟨fun _ h => (by cases h), fun _ => rfl⟩,
    ⟨⟨by decide, by decide, by decide, by decide, by decide⟩, fun h => absurd rfl h, fun h => by cases h⟩, ⟨_, rfl⟩⟩
theorem witness_StepsKeepTheQueue : QueueSound dueNear ∧ ∃ t, step dueNear = .next t :=
  ⟨witness_TickDeliversTheDueEntries.1.2.1, ⟨_, rfl⟩⟩
theorem witness_StepsKeepTheRequests : RequestsSound running ∧ ∃ t, step running = .next t :=
  ⟨⟨by decide, by decide, by decide, by decide, by decide, by decide, by decide, by decide, by decide, by decide,
    fun _ h => by cases h⟩, ⟨_, rfl⟩⟩
theorem witness_StepsKeepTheChannels : ChannelsSound running ∧ ∃ t, step running = .next t :=
  ⟨fun c => by rw [running_rests.1 c]; exact ⟨⟨rfl, rfl, rfl, rfl⟩, fun _ h => by cases h⟩, ⟨_, rfl⟩⟩
theorem witness_StepsKeepRoundsAndPeers :
    RoundsSound running ∧ PeersSound running ∧ ∃ t, step running = .next t :=
  ⟨⟨by decide, by decide, by decide⟩, ⟨by decide, by decide, by decide, fun x _ => running_rests.2.2.2 x⟩,
    ⟨_, rfl⟩⟩
theorem witness_StepsKeepStagingAndDisabledChannels :
    StagingSound running ∧ DisabledChannelsRest running ∧ ∃ t, step running = .next t :=
  ⟨fun c g h => (by rw [running_rests.2.1 c] at h; cases h),
    ⟨by decide, fun c h => (by rw [running_rests.2.1 c] at h; cases h),
      fun i b h => (by rw [running_rests.2.2.1 i] at h; cases h), fun c _ => running_rests.1 c,
      fun h => by cases h⟩, ⟨_, rfl⟩⟩
theorem witness_BusTimeOnlyMovesForward :
    (∃ t, exec .dueDelivery running = .next t) ∧ running.pending = [] ∧ ∃ t, step running = .next t :=
  ⟨⟨_, rfl⟩, rfl, ⟨_, rfl⟩⟩
theorem witness_FlagsAreSticky :
    (∃ t, exec (.clear (toAll [2, 0])) (muted hearing) = .next t) ∧ (muted hearing).flag .idClash = true :=
  ⟨⟨_, rfl⟩, by decide⟩
theorem witness_FaultSyncAndReadPins :
    ((muted running).faultLine = true ∧ running.faultLine = false ∧ running.syncLine = true ∧ reading.mcs = true) ∧
    ((sending 136 true [.beacon]).line.episode = .own ⟨[0], true, 136⟩ ∧ (sending 136 true [.beacon]).ltxe = true ∧
      (sending 8 true [.beacon]).ltxe = false ∧ (lineBits [0])[0]? = some true ∧
      values.bitTicks * (24 + 8 * 1 + 2) - 136 = 0) ∧
    reading.loader.readLeft = some 0 ∧ running.loader.readLeft = none := by decide
/-- The preamble opens low, then high: a one. -/
theorem test_the_first_bit_on_the_line :
    (List.range 5).map (fun n => (sending (136 - n) true [.beacon]).ltx) =
      [some false, some false, some true, some true, some true] := by decide +kernel

end Sys2Proof.Tests
end

section
/-! PROOF. Which frames a station takes: the frame end of a good frame divided by its sender (R26), and the
destination filter (R29). -/

namespace Sys2Proof.Machine

/-! ### The frame end of a good frame -/

/-- Every row that carries a good frame receives it; the row fixes only the block that the payload is handed
to (R28, R30). -/
theorem exec_frame_receives {c : Instr} {k : BitVec 4} {f : Frame} (h : frameOf c = some (k, f)) :
    ∃ handed : Frame → State → State, ∀ s : State, exec c s = .next (s.receive f handed) := by
  cases c
  all_goals cases h
  all_goals exact ⟨_, fun _ => rfl⟩

/-- At an active station that has captured an arrival the frame end is what was judged of the episode (R22,
R25). -/
theorem State.lineFrameEnd_of_captured {s : State} {a : BusTime} (judged : BusTime → State → State)
    (hactive : s.active = true) (hcaptured : s.line.episode = .captured a) :
    s.lineFrameEnd judged = judged a s := by
  simp [State.lineFrameEnd, hactive, hcaptured]

/-- A good frame from outside the ring has its frame end and nothing else (R26). -/
theorem State.goodFrame_of_foreign {s : State} {f : Frame} (handed : Frame → State → State) (a : BusTime)
    (hforeign : s.cfg.slots ≤ f.sender.val) : s.goodFrame f handed a = s.frameEnd :=
  if_pos hforeign

/-- An arriving frame has stages 1 to 3, and its payload is then handed on or not (R28). -/
theorem State.receive_of_arrives {s : State} {f : Frame} {a : BusTime} (handed : Frame → State → State)
    (h : Arrives f a s) : s.receive f handed = (s.arrived f a).handOn f handed := by
  have hpeer : s.goodFrame f handed a = s.peerFrame f handed a := by
    simp [State.goodFrame, Nat.not_le.mpr h.inRing, h.notOwn]
  calc s.receive f handed
      = s.goodFrame f handed a := State.lineFrameEnd_of_captured _ h.active h.captured
    _ = (s.arrived f a).handOn f handed := hpeer

/-! ### The timebase records no rejection reason -/

/-- A flag set on its cause leaves the rejection reason. -/
@[simp] theorem State.setFlagIf_reason (cause : Bool) (f : Flag) (s : State) :
    (s.setFlagIf cause f).faults.reason = s.faults.reason := by
  cases cause <;> rfl

/-- The delivery of an entry, sound or disturbed, leaves the rejection reason. -/
theorem State.deliverEntry_reason (late : Bool) (s : State) (e : CueEntry) :
    (s.deliverEntry late e).faults.reason = s.faults.reason := by
  unfold State.deliverEntry
  split <;> rfl

/-- The delivery of entries leaves the rejection reason. -/
theorem State.deliverEntries_reason (late : CueEntry → Bool) (es : List CueEntry) (s : State) :
    (es.foldl (fun t e => t.deliverEntry (late e) e) s).faults.reason = s.faults.reason := by
  induction es generalizing s with
  | nil => rfl
  | cons e rest ih => exact (ih _).trans (s.deliverEntry_reason _ e)

/-- A step of bus time, with the deliveries that it brings, leaves the rejection reason. -/
theorem State.stepTime_reason (lead : Int) (s : State) :
    (s.stepTime lead).faults.reason = s.faults.reason :=
  (State.setFlagIf_reason _ _ _).trans (State.deliverEntries_reason (passedBy _) _ _)

/-- A far lead sets a flag at most and leaves the rejection reason. -/
theorem State.farLead_reason (lead : Int) (s : State) :
    (s.farLead lead).faults.reason = s.faults.reason := by
  unfold State.farLead
  split
  · rfl
  · split <;> rfl

/-- Whatever the timebase does with a lead, it leaves the rejection reason (R8, R9). -/
theorem State.takeLead_reason (lead : Int) (s : State) :
    (s.takeLead lead).faults.reason = s.faults.reason := by
  unfold State.takeLead
  split
  case h_1 =>
    split
    · exact s.stepTime_reason lead
    · rfl
  case h_2 =>
    split
    · rfl
    · split
      · exact State.stepTime_reason lead (s.withTimebase _)
      · exact s.farLead_reason lead

/-! ### The configuration and the fault unit over stages 1 to 3 -/

/-- Stages 1 to 3 of an arrival leave the configuration values. -/
theorem State.arrived_cfg (f : Frame) (a : BusTime) (s : State) : (s.arrived f a).cfg = s.cfg := by
  obtain ⟨t, k, q, v, u, hlead⟩ := s.frameEnd.takeLead_footprint (s.frameLead f a)
  simp only [State.arrived, State.stages, hlead]
  rfl

/-- Of stages 1 to 3 only the timebase's part reaches the fault unit. -/
theorem State.arrived_faults (f : Frame) (a : BusTime) (s : State) :
    (s.arrived f a).faults = (s.frameEnd.takeLead (s.frameLead f a)).faults := rfl

/-- Stages 1 to 3 of an arrival record no rejection reason. -/
theorem State.arrived_reason (f : Frame) (a : BusTime) (s : State) :
    (s.arrived f a).faults.reason = s.faults.reason :=
  State.takeLead_reason (s.frameLead f a) s.frameEnd

/-! ### The destination filter -/

/-- In STATION mode the destination is the station's own identifier (R29). -/
theorem State.matchesDest_station_iff {s : State} {f : Frame} (hmode : f.destMode = .station) :
    s.matchesDest f = true ↔ f.dest.toNat = s.cfg.ownId.val := by
  simp [State.matchesDest, hmode]

/-- Two sets of groups meet exactly when some group is in both. -/
theorem and_ne_zero_iff_shared {w : Nat} (x y : BitVec w) :
    x &&& y ≠ 0 ↔ ∃ n, n < w ∧ x.getLsbD n = true ∧ y.getLsbD n = true := by
  constructor
  · intro hne
    by_contra hnone
    refine hne (BitVec.eq_of_getLsbD_eq fun n hn => ?_)
    have hn' : ¬(x.getLsbD n = true ∧ y.getLsbD n = true) := fun hboth => hnone ⟨n, hn, hboth⟩
    simpa using hn'
  · rintro ⟨n, -, hx, hy⟩ hzero
    have hbit := congrArg (BitVec.getLsbD · n) hzero
    simp [hx, hy] at hbit

/-- In GROUPS mode the destination and the station share a group (R29). -/
theorem State.matchesDest_groups_iff {s : State} {f : Frame} (hmode : f.destMode = .groups) :
    s.matchesDest f = true ↔
      ∃ n, n < 16 ∧ f.dest.getLsbD n = true ∧ s.cfg.groups.getLsbD n = true := by
  rw [← and_ne_zero_iff_shared]
  simp [State.matchesDest, hmode]

/-- The filter reads the configuration and nothing else of the state. -/
theorem State.matchesDest_congr {s t : State} (f : Frame) (h : s.cfg = t.cfg) :
    s.matchesDest f = t.matchesDest f := by
  simp only [State.matchesDest, h]

/-- A payload that does not match is not handed on (R29). -/
theorem State.handOn_of_unmatched {s : State} {f : Frame} (handed : Frame → State → State)
    (h : s.matchesDest f = false) : s.handOn f handed = s := by
  simp [State.handOn, h]

/-- An arriving frame that does not match is dropped after stage 3, whichever row carries it (R29). -/
theorem exec_of_unmatched {c : Instr} {k : BitVec 4} {f : Frame} {a : BusTime} {s : State}
    (hframe : frameOf c = some (k, f)) (harrives : Arrives f a s) (hdest : s.matchesDest f = false) :
    exec c s = .next (s.arrived f a) := by
  obtain ⟨handed, hexec⟩ := exec_frame_receives hframe
  have hdropped : (s.arrived f a).matchesDest f = false := by
    rw [State.matchesDest_congr f (s.arrived_cfg f a), hdest]
  rw [hexec, State.receive_of_arrives handed harrives, State.handOn_of_unmatched handed hdropped]

/-! ### The obligations -/

/-- Settles O20: at a captured episode FOREIGN_FRAME is the frame end by definition, and every frame row
reaches it through the sender test of the good frame. -/
theorem foreignFramesOnlyAnchor : Obligations.ForeignFramesOnlyAnchor := by
  intro s a c hactive hcaptured hforeign
  suffices hend : exec c s = .next s.frameEnd from hend
  rcases hforeign with rfl | ⟨k, f, hframe, houtside⟩
  case inl => exact congrArg _ (State.lineFrameEnd_of_captured _ hactive hcaptured)
  case inr =>
    obtain ⟨handed, hexec⟩ := exec_frame_receives hframe
    have hreceive : s.receive f handed = s.goodFrame f handed a :=
      State.lineFrameEnd_of_captured _ hactive hcaptured
    rw [hexec, hreceive, State.goodFrame_of_foreign handed a houtside]

/-- Settles O27: each mode by its own equivalence; the drop because stages 1 to 3 leave the configuration that
the filter reads, and of them only the timebase's lead touches the fault unit. -/
theorem destinationFilter : Obligations.DestinationFilter := by
  intro f s
  refine ⟨fun hstation => ⟨State.matchesDest_station_iff hstation, fun hlarge => ?_⟩,
    fun hgroups => ⟨State.matchesDest_groups_iff hgroups, fun hzero => ?_⟩, fun hall => ?_,
    fun c k a hframe harrives hdest => ?_⟩
  · have hne : f.dest.toNat ≠ s.cfg.ownId.val := by have := s.cfg.ownId.isLt; omega
    exact Bool.eq_false_iff.mpr fun hmatch => hne ((State.matchesDest_station_iff hstation).mp hmatch)
  · refine Bool.eq_false_iff.mpr fun hmatch => ?_
    obtain ⟨n, -, hbit, -⟩ := (State.matchesDest_groups_iff hgroups).mp hmatch
    simp [hzero] at hbit
  · simp [State.matchesDest, hall]
  · exact ⟨_, exec_of_unmatched hframe harrives hdest, rfl, s.arrived_reason f a,
      congrArg FaultUnit.flags (s.arrived_faults f a)⟩

end Sys2Proof.Machine
end

section
/-! PROOF. The output channels: how a non-level firing meets each phase (R73, R81 to R83), how the waiting firing
starts (R77), and the level at the output (R70, R72). -/

namespace Sys2Proof.Machine

/-! ### Programs of a non-level kind -/

/-- The ON phase of a non-level program has the active half of a SQUARE's period, the width of the others (R73,
R76). -/
theorem onTicks_of_nonLevel {p : Program} (hon : p.kind ≠ .levelOn) (hoff : p.kind ≠ .levelOff) :
    onTicks p = if p.kind = .square then (p.period.toNat + 1) / 2 else p.width.toNat := by
  cases hkind : p.kind
  case levelOn => exact absurd hkind hon
  case levelOff => exact absurd hkind hoff
  all_goals simp [onTicks, activeHalf, hkind]

/-- Only a finite TRAIN or SQUARE starts with a remaining count (R73). -/
theorem startCount_eq (p : Program) :
    startCount p = if (p.kind = .train ∨ p.kind = .square) ∧ p.count ≠ 0 then some p.count.toNat else none := by
  cases hkind : p.kind
  case train => by_cases hzero : p.count = 0 <;> simp [startCount, hkind, hzero]
  case square => by_cases hzero : p.count = 0 <;> simp [startCount, hkind, hzero]
  all_goals simp [startCount, hkind]

/-! ### A non-level firing meets a channel -/

/-- Every kind but the two levels is taken as a non-level firing (R80). -/
theorem Channel.takeFiring_of_nonLevel {p : Program} (hon : p.kind ≠ .levelOn) (hoff : p.kind ≠ .levelOff)
    (g : Nat) (late : Bool) (k : Channel) : k.takeFiring g p late = k.takeNonLevel g p late := by
  cases hkind : p.kind
  case levelOn => exact absurd hkind hon
  case levelOff => exact absurd hkind hoff
  all_goals simp [Channel.takeFiring, hkind]

/-- A RETRIG that meets a RETRIG in ON restarts the ON phase (R81). -/
theorem Channel.takeNonLevel_of_on_retrig {k : Channel} {p q : Program} {n : Nat} (hphase : k.phase = .on n)
    (hrunning : k.running = some q) (hq : q.kind = .retrig) (hp : p.kind = .retrig) (g : Nat) (late : Bool) :
    k.takeNonLevel g p late = { k with phase := .on p.width.toNat, running := some p, late := late } := by
  simp [Channel.takeNonLevel, Channel.runningKind, hphase, hrunning, hq, hp]

/-- A firing that meets another program than a RETRIG in ON waits (R82). -/
theorem Channel.takeNonLevel_of_on_other {k : Channel} {q : Program} {n : Nat} (hphase : k.phase = .on n)
    (hrunning : k.running = some q) (hq : q.kind ≠ .retrig) (g : Nat) (p : Program) (late : Bool) :
    k.takeNonLevel g p late = k.place p late := by
  simp [Channel.takeNonLevel, Channel.runningKind, hphase, hrunning, hq]

/-- A firing that meets a channel in RECOVER waits (R82). -/
theorem Channel.takeNonLevel_of_recover {k : Channel} {n : Nat} (hphase : k.phase = .recover n)
    (g : Nat) (p : Program) (late : Bool) : k.takeNonLevel g p late = k.place p late := by
  simp [Channel.takeNonLevel, hphase]

/-- A firing that meets a hold ends it and waits (R83). -/
theorem Channel.takeNonLevel_of_hold {k : Channel} (hphase : k.phase = .hold)
    (g : Nat) (p : Program) (late : Bool) :
    k.takeNonLevel g p late = { k with phase := .recover g, waiting := some ⟨p, late⟩ } := by
  simp [Channel.takeNonLevel, Channel.enterRecover, hphase]

/-- At the end of RECOVER the waiting firing starts and leaves the pending slot (R77). -/
theorem Channel.recoverEnds_of_waiting {k : Channel} {w : Waiting} (hwaiting : k.waiting = some w) :
    k.recoverEnds = { k.start w.program w.late with waiting := none } := by
  simp [Channel.recoverEnds, hwaiting]

/-! ### The level at an output -/

/-- A channel is active in ON and in HOLD (R72). -/
theorem Channel.active_of_on_or_hold {k : Channel} (h : (∃ n, k.phase = .on n) ∨ k.phase = .hold) :
    k.active = true := by
  rcases h with ⟨n, hon⟩ | hhold
  · simp [Channel.active, hon]
  · simp [Channel.active, hhold]

/-- A channel is inactive in IDLE, OFF and RECOVER (R72). -/
theorem Channel.inactive_of_idle_off_or_recover {k : Channel}
    (h : k.phase = .idle ∨ ∃ n, k.phase = .off n ∨ k.phase = .recover n) : k.active = false := by
  rcases h with hidle | ⟨n, hoff | hrecover⟩
  · simp [Channel.active, hidle]
  · simp [Channel.active, hoff]
  · simp [Channel.active, hrecover]

/-- The station is active exactly in JOINING and RUNNING. -/
theorem State.active_iff_joining_or_running (s : State) :
    s.active = true ↔ s.loader.life = .joining ∨ s.loader.life = .running := by
  cases hlife : s.loader.life
  all_goals simp [State.active, hlife]

/-- The station is inactive exactly in LOADING and UNCONFIGURED. -/
theorem State.inactive_iff_loading_or_unconfigured (s : State) :
    s.active = false ↔ s.loader.life = .loading ∨ s.loader.life = .unconfigured := by
  cases hlife : s.loader.life
  all_goals simp [State.active, hlife]

/-- An output is undriven exactly while the station is inactive (R72). -/
theorem State.tout_eq_none_iff (s : State) (c : ChannelId) : s.tout c = none ↔ s.active = false := by
  cases hactive : s.active
  case false => simp [State.tout, State.outputsDriven, hactive]
  case true => simp [State.tout, State.outputsDriven, hactive]

/-- A driven output shows its channel by its polarity (R70, R72). -/
theorem State.tout_of_active {s : State} (h : s.active = true) (c : ChannelId) :
    s.tout c = some (xor s.channels[c].active s.cfg.channels[c].activeLow) :=
  if_pos h

/-! ### The obligations -/

/-- Settles O45: a RETRIG is a non-level firing, and each of the three meetings is a law of such firings. -/
theorem retrigRestartsOn : Obligations.RetrigRestartsOn := by
  intro g n p late k hp
  have htake : k.takeFiring g p late = k.takeNonLevel g p late :=
    Channel.takeFiring_of_nonLevel (by simp [hp]) (by simp [hp]) g late k
  refine ⟨fun q hphase hrunning hq => ?_, fun q hrunning hmeets => ?_⟩
  · have hrestart := htake.trans (Channel.takeNonLevel_of_on_retrig hphase hrunning hq hp g late)
    refine ⟨hrestart, ?_, Channel.active_of_on_or_hold (.inl ⟨n, hphase⟩)⟩
    rw [hrestart]
    exact Channel.active_of_on_or_hold (.inl ⟨_, rfl⟩)
  · rw [htake]
    rcases hmeets with ⟨hphase, -⟩ | ⟨hphase, hother⟩
    · exact Channel.takeNonLevel_of_recover hphase g p late
    · have hq : q.kind ≠ .retrig := by rcases hother with h | h | h <;> simp [h]
      exact Channel.takeNonLevel_of_on_other hphase hrunning hq g p late

/-- Settles O46: the firing that ended the hold waits in the pending slot, so it is what the end of RECOVER
starts. -/
theorem nonLevelFiringEndsAHold : Obligations.NonLevelFiringEndsAHold := by
  intro g p late k hphase _ hon hoff
  have hend : k.takeFiring g p late = { k with phase := .recover g, waiting := some ⟨p, late⟩ } :=
    (Channel.takeFiring_of_nonLevel hon hoff g late k).trans (Channel.takeNonLevel_of_hold hphase g p late)
  refine ⟨hend, ?_, onTicks p, ?_, onTicks_of_nonLevel hon hoff⟩
  · rw [hend]
    exact Channel.inactive_of_idle_off_or_recover (.inr ⟨g, .inr rfl⟩)
  · rw [hend, ← startCount_eq]
    exact Channel.recoverEnds_of_waiting (w := ⟨p, late⟩) rfl

/-- Settles O49: driven or not by the life state, the level by the phase; the view reads no fault flag. -/
theorem outputsFollowTheChannels : Obligations.OutputsFollowTheChannels := by
  intro s c
  refine ⟨(s.tout_eq_none_iff c).trans s.inactive_iff_loading_or_unconfigured, fun hlife => ?_, fun _ => rfl⟩
  have hlevel := State.tout_of_active (s.active_iff_joining_or_running.mpr hlife) c
  refine ⟨fun hphase => ?_, fun hphase => ?_⟩
  · rw [hlevel, Channel.active_of_on_or_hold hphase, Bool.true_xor]
  · rw [hlevel, Channel.inactive_of_idle_off_or_recover hphase, Bool.false_xor]

end Sys2Proof.Machine
end

section
/-! PROOF. The slots of an OPEN round: its order, and how the reference SLOTS less one counts them (R144, R146). -/

namespace Sys2Proof.Machine

/-! ### The order of an OPEN round -/

/-- In an OPEN round the last sender has no part in the order (R146). -/
theorem State.roundOrder_of_openRound {s : State} (h : s.line.mode = .openRound) :
    s.roundOrder = ⟨.openRound, s.cfg.slots - 1, []⟩ := by
  simp [State.roundOrder, h]

/-- An OPEN round has one slot for each identifier of the ring (R146). -/
@[simp] theorem slotCount_openRound (slots r : Nat) (cl : List StationId) :
    slotCount slots ⟨.openRound, r, cl⟩ = slots := rfl

/-- In an OPEN round a station uses the slot of its position (R146). -/
@[simp] theorem slotOf_openRound (slots r : Nat) (cl : List StationId) (x : StationId) :
    slotOf slots ⟨.openRound, r, cl⟩ x = position slots r x := rfl

/-! ### Positions from the last identifier -/

/-- The identifier after the last one of the ring is 0, so positions counted from the last are the identifiers
themselves (R144). -/
theorem position_of_last {slots : Nat} {x : StationId} (hx : x.val < slots) :
    position slots (slots - 1) x = x.val := by
  have hturn : (x.val : Int) - ((slots - 1 : Nat) : Int) - 1 = x.val - slots := by omega
  have hring : ((x.val : Int) - slots) % slots = x.val := by
    rw [Int.sub_emod_right]
    exact Int.emod_eq_of_lt (by omega) (by omega)
  rw [position, hturn, hring, Int.toNat_natCast]

/-! ### The obligation -/

/-- Settles O14: the order of an OPEN round is a constant of the configuration, in which a position is an
identifier. -/
theorem openRoundSlots : Obligations.OpenRoundSlots := by
  intro s hopen _ _
  have horder : s.roundOrder = ⟨.openRound, s.cfg.slots - 1, []⟩ := State.roundOrder_of_openRound hopen
  have hcount : slotCount s.cfg.slots s.roundOrder = s.cfg.slots := by rw [horder, slotCount_openRound]
  refine ⟨by rw [horder], by rw [horder], fun x hx => ?slot, hcount, ?length, fun peers timer => ?independent⟩
  case slot =>
    have hposition := position_of_last hx
    exact ⟨hposition, by rw [horder, slotOf_openRound, hposition]⟩
  case length => rw [hcount, Params.slotStart]
  case independent =>
    rw [horder]
    exact State.roundOrder_of_openRound hopen

end Sys2Proof.Machine
end

section
/-! PROOF. The loader: the global checks of a block (R179), what each command does to the loader, and the commands
that begin a read (R178, R183, R184). -/

namespace Sys2Proof.Machine

/-! ### The global checks (R179) -/

/-- The format of a block as long as a read makes it: signature, layout version and block check (R179). -/
theorem checkFormat_iff {b : List Byte} (hlen : b.length = 322) :
    checkFormat b = true ↔
      byteAt b 0 = 0xC5 ∧ byteAt b 1 = 0x3A ∧ byteAt b 2 = 1 ∧
      crc16 (b.take 320) = byteAt b 320 ++ byteAt b 321 := by
  simp only [checkFormat, hlen, Config.blockBytes, Bool.and_eq_true, decide_eq_true_eq, true_and, and_assoc]
  rfl

/-- The values of the line: SLOTS, the station's identifier within it, the rate code, the IFG and the slot time
(R179). -/
theorem checkLine_iff (b : List Byte) :
    checkLine b = true ↔
      2 ≤ (byteAt b 4).toNat ∧ (byteAt b 4).toNat ≤ 32 ∧ (byteAt b 3).toNat < (byteAt b 4).toNat ∧
      (byteAt b 7).toNat ≤ 3 ∧ 8 ≤ (byteAt b 8).toNat ∧ 4 ≤ (byteAt b 9).toNat := by
  simp only [checkLine, Bool.and_eq_true, decide_eq_true_eq, and_assoc]
  rfl

/-- The durations, the silence factor, and a join window no shorter than the silence time (R179). -/
theorem checkDurations_iff (b : List Byte) :
    checkDurations b = true ↔
      1 ≤ (field16 b 12).toNat ∧ 1 ≤ (field16 b 14).toNat ∧ 1 ≤ (field16 b 18).toNat ∧
      1 ≤ (field16 b 23).toNat ∧ 2 ≤ (byteAt b 20).toNat ∧ (byteAt b 20).toNat ≤ 15 ∧
      (field16 b 18).toNat * (byteAt b 20).toNat ≤ (field16 b 21).toNat := by
  simp only [checkDurations, Bool.and_eq_true, decide_eq_true_eq, and_assoc]
  rfl

/-- Every input's sample code and filter count (R179). -/
theorem checkInputs_iff (b : List Byte) :
    checkInputs b = true ↔ ∀ n : Fin 4, ((byteAt b (27 + 2 * n)).extractLsb' 0 4).toNat ≤ 3 ∧
      1 ≤ (byteAt b (28 + 2 * n)).toNat ∧ (byteAt b (28 + 2 * n)).toNat ≤ 15 := by
  simp only [checkInputs, List.all_eq_true, List.mem_finRange, true_implies, Bool.and_eq_true, decide_eq_true_eq,
    and_assoc]
  rfl

/-- Every channel's recovery gap (R179). -/
theorem checkChannels_iff (b : List Byte) :
    checkChannels b = true ↔ ∀ n : Fin 8, 1 ≤ (byteAt b (36 + 2 * n)).toNat := by
  simp only [checkChannels, List.all_eq_true, List.mem_finRange, true_implies, decide_eq_true_eq]
  rfl

/-- The padding bytes are the 13 from byte 51 on (R35, R179). -/
theorem checkPadding_iff {b : List Byte} (hlen : b.length = 322) :
    checkPadding b = true ↔ ∀ i, 51 ≤ i → i ≤ 63 → byteAt b i = 0 := by
  have hbyte : ∀ i (hi : i < ((b.drop 51).take 13).length), ((b.drop 51).take 13)[i] = byteAt b (51 + i) := by
    intro i hi
    have hin : 51 + i < b.length := by simp at hi; omega
    simp [byteAt, hin]
  have hsize : ((b.drop 51).take 13).length = 13 := by simp [hlen]
  simp only [checkPadding, List.all_eq_true, decide_eq_true_eq, List.forall_mem_iff_forall_getElem]
  constructor
  · intro h i hlow hhigh
    have hi : i - 51 < ((b.drop 51).take 13).length := by omega
    have hzero := h (i - 51) hi
    rwa [hbyte, Nat.add_sub_cancel' hlow] at hzero
  · intro h i hi
    rw [hbyte]
    exact h (51 + i) (by omega) (by omega)

/-- A block as long as a read makes it is valid exactly when every global check holds (R179). -/
theorem blockValid_iff {b : List Byte} (hlen : b.length = 322) :
    blockValid b = true ↔
      byteAt b 0 = 0xC5 ∧ byteAt b 1 = 0x3A ∧ byteAt b 2 = 1 ∧
      crc16 (b.take 320) = byteAt b 320 ++ byteAt b 321 ∧
      2 ≤ (byteAt b 4).toNat ∧ (byteAt b 4).toNat ≤ 32 ∧ (byteAt b 3).toNat < (byteAt b 4).toNat ∧
      (byteAt b 7).toNat ≤ 3 ∧ 8 ≤ (byteAt b 8).toNat ∧ 4 ≤ (byteAt b 9).toNat ∧
      1 ≤ (field16 b 12).toNat ∧ 1 ≤ (field16 b 14).toNat ∧ 1 ≤ (field16 b 18).toNat ∧
      1 ≤ (field16 b 23).toNat ∧ 2 ≤ (byteAt b 20).toNat ∧ (byteAt b 20).toNat ≤ 15 ∧
      (field16 b 18).toNat * (byteAt b 20).toNat ≤ (field16 b 21).toNat ∧
      (∀ n : Fin 4, ((byteAt b (27 + 2 * n)).extractLsb' 0 4).toNat ≤ 3 ∧
        1 ≤ (byteAt b (28 + 2 * n)).toNat ∧ (byteAt b (28 + 2 * n)).toNat ≤ 15) ∧
      (∀ n : Fin 8, 1 ≤ (byteAt b (36 + 2 * n)).toNat) ∧
      (∀ i, 51 ≤ i → i ≤ 63 → byteAt b i = 0) := by
  simp only [blockValid, Bool.and_eq_true, checkFormat_iff hlen, checkLine_iff, checkDurations_iff, checkInputs_iff,
    checkChannels_iff, checkPadding_iff hlen, and_assoc]

/-! ### The judgment at the end of a read (R179 to R181) -/

/-- At the end of a read the loader stores the block and judges it (R178, R179). -/
theorem exec_readEnd_of_read {s : State} (b : List Byte) (hlife : s.loader.life = .loading)
    (hleft : s.loader.readLeft = some 0) : exec (.readEnd b) s = .next (s.endRead b).judgeBlock := by
  have hend : (decide (s.loader.life = .loading) && expired s.loader.readLeft) = true := by
    simp [expired, hlife, hleft]
  exact congrArg _ (if_pos hend)

/-- The values that the blocks take from a valid block leave the loader. -/
@[simp] theorem State.takeValues_loader (b : List Byte) (s : State) : (s.takeValues b).loader = s.loader := by
  obtain ⟨u, hflag⟩ := State.setFlagIf_footprint (rejectsBinding (paramsOf b).channels b) .bindingRejected
    (((s.withCfg (paramsOf b)).withBindings (loadBindings (paramsOf b).channels b)).withFaults
      { s.faults with mask := maskOf b })
  rw [State.takeValues, hflag]
  rfl

/-- A valid block starts the join window (R181). -/
theorem State.judgeBlock_loader_of_valid {s : State} (h : blockValid s.loader.block = true) :
    s.judgeBlock.loader =
      { s.loader with life := .joining, joinLeft := some (paramsOf s.loader.block).joinWindow } := by
  simp [State.judgeBlock, h, State.enterJoining, State.openReceiver]

/-- A block that fails leaves the station UNCONFIGURED (R180). -/
theorem State.judgeBlock_loader_of_invalid {s : State} (h : blockValid s.loader.block = false) :
    s.judgeBlock.loader = { s.loader with life := .unconfigured } := by
  simp [State.judgeBlock, h, State.enterUnconfigured]

/-! ### What leaves the loader as it is -/

/-- An operation that acts on a condition leaves the loader when each branch does. -/
theorem State.ite_loader {p : Prop} [Decidable p] {s u v : State} (hu : u.loader = s.loader)
    (hv : v.loader = s.loader) : (if p then u else v).loader = s.loader := by
  split
  · exact hu
  · exact hv

/-- A BEACON payload leaves the loader. -/
@[simp] theorem State.takeBeacon_loader (f : Frame) (s : State) : (s.takeBeacon f).loader = s.loader :=
  State.ite_loader rfl rfl

/-- An EDGE payload leaves the loader. -/
@[simp] theorem State.takeEdgeReport_loader (f : Frame) (s : State) : (s.takeEdgeReport f).loader = s.loader := by
  obtain ⟨q, v, u, h⟩ := s.takeEdgeReport_footprint f
  simp [h]

/-- A SCHEDULE payload leaves the loader. -/
@[simp] theorem State.takeSchedule_loader (f : Frame) (s : State) : (s.takeSchedule f).loader = s.loader := by
  obtain ⟨q, v, u, h⟩ := s.takeSchedule_footprint f
  simp [h]

/-- A STAGE payload leaves the loader. -/
@[simp] theorem State.takeStage_loader (f : Frame) (s : State) : (s.takeStage f).loader = s.loader := by
  obtain ⟨g, u, h⟩ := s.takeStage_footprint f
  simp [h]

/-- A RELEASE payload leaves the loader. -/
@[simp] theorem State.takeRelease_loader (f : Frame) (s : State) : (s.takeRelease f).loader = s.loader := by
  obtain ⟨g, q, v, u, h⟩ := s.takeRelease_footprint f
  simp [h]

/-- A CANCEL payload leaves the loader. -/
@[simp] theorem State.takeCancel_loader (f : Frame) (s : State) : (s.takeCancel f).loader = s.loader := by
  obtain ⟨g, q, v, u, w, h⟩ := s.takeCancel_footprint f
  simp [h]

/-- A PROBE payload leaves the loader. -/
@[simp] theorem State.takeProbe_loader (f : Frame) (s : State) : (s.takeProbe f).loader = s.loader := by
  obtain ⟨p, u, l, h⟩ := s.takeProbe_footprint f
  simp [h]

/-- A CLEAR payload leaves the loader. -/
@[simp] theorem State.takeClear_loader (f : Frame) (s : State) : (s.takeClear f).loader = s.loader := by
  obtain ⟨l, b, u, h⟩ := s.takeClear_footprint f
  simp [h]

/-- Stages 1 to 3 of an arrival leave the loader. -/
@[simp] theorem State.stages_loader (f : Frame) (lead : Int) (s : State) : (s.stages f lead).loader = s.loader := by
  obtain ⟨t, k, q, v, u, h⟩ := s.takeLead_footprint lead
  simp only [State.stages, h]
  rfl

/-- The frame end of a clash leaves the loader. -/
@[simp] theorem State.clashEnd_loader (s : State) : s.clashEnd.loader = s.loader :=
  State.ite_loader (u := s.frameEnd) (v := s.frameEnd.enterMute) rfl rfl

/-- The start of a slot leaves the loader. -/
@[simp] theorem State.slotStarts_loader (s : State) : s.slotStarts.loader = s.loader := by
  obtain ⟨x, e, r, i, h⟩ := s.slotStarts_footprint
  simp [h]

/-- The frame end of an own complete episode leaves the loader. -/
@[simp] theorem State.completeEnd_loader (s : State) : s.completeEnd.loader = s.loader := by
  obtain ⟨i, l, a, u, h⟩ := s.frameEnd.headCompletes_footprint
  rw [State.completeEnd, h]
  rfl

/-- The frame end of an own aborted episode leaves the loader. -/
@[simp] theorem State.abortedEnd_loader (s : State) : s.abortedEnd.loader = s.loader := by
  obtain ⟨i, l, a, u, h⟩ := s.frameEnd.headAborts_footprint
  rw [State.abortedEnd, h]
  rfl

/-- The start of the beacon timer leaves the loader. -/
@[simp] theorem State.startBeacon_loader (s : State) : s.startBeacon.loader = s.loader := by
  obtain ⟨l, h⟩ := s.startBeacon_footprint
  simp [h]

/-- A sample of an input leaves the loader. -/
@[simp] theorem State.takeSample_loader (n : InputId) (level : Bool) (s : State) :
    (s.takeSample n level).loader = s.loader := by
  obtain ⟨x, i, q, v, l, u, h⟩ := s.takeSample_footprint n level
  simp [h]

/-- A tick of bus time leaves the loader. -/
@[simp] theorem State.busTick_loader (s : State) : s.busTick.loader = s.loader := by
  obtain ⟨v, u, h⟩ := s.busTick_footprint
  simp [h]

/-- The scope of a CANCEL that has waited leaves the loader. -/
@[simp] theorem State.finishCancel_loader (s : State) : s.finishCancel.loader = s.loader := by
  obtain ⟨q, v, h⟩ := s.finishCancel_footprint
  simp [h]

/-- The end of the join window moves the life state and stops the window's timer (R182). -/
theorem State.enterRunning_loader (levels : BitVec 4) (s : State) :
    (s.enterRunning levels).loader = { s.loader with life := .running, joinLeft := none } := by
  unfold State.enterRunning
  dsimp only
  split
  · rfl
  · rw [State.startBeacon_loader]
    rfl

/-! ### Frame ends -/

/-- A frame end on the line leaves the loader, unless it is what was judged of the episode (R22, R25). -/
theorem State.lineFrameEnd_loader_or_judged (judged : BusTime → State → State) (s : State) :
    (s.lineFrameEnd judged).loader = s.loader ∨ ∃ a, s.lineFrameEnd judged = judged a s := by
  unfold State.lineFrameEnd
  split
  · cases s.line.episode
    case captured a => exact .inr ⟨a, rfl⟩
    all_goals exact .inl rfl
  · exact .inl rfl

/-- A frame end on the line leaves the loader when its judgment does. -/
theorem State.lineFrameEnd_loader {judged : BusTime → State → State} {s : State}
    (h : ∀ a, (judged a s).loader = s.loader) : (s.lineFrameEnd judged).loader = s.loader := by
  rcases s.lineFrameEnd_loader_or_judged judged with hkept | ⟨a, hjudged⟩
  · exact hkept
  · rw [hjudged, h a]

/-- A good frame leaves the loader, or its payload is handed on with the loader as it was (R26 to R30). -/
theorem State.receive_loader_or_handed (f : Frame) (handed : Frame → State → State) (s : State) :
    (s.receive f handed).loader = s.loader ∨
      ∃ u : State, u.loader = s.loader ∧ s.receive f handed = handed f u := by
  rcases s.lineFrameEnd_loader_or_judged (State.goodFrame f handed) with hkept | ⟨a, hjudged⟩
  · exact .inl hkept
  rw [State.receive, hjudged, State.goodFrame]
  split
  · exact .inl rfl
  split
  · exact .inl s.clashEnd_loader
  · have hstages : (s.frameEnd.stages f (s.frameLead f a)).loader = s.loader := State.stages_loader f _ s.frameEnd
    rw [State.peerFrame, State.handOn]
    split
    · exact .inr ⟨_, hstages, rfl⟩
    · exact .inl hstages

/-- A good frame leaves the loader when its payload's owner does. -/
theorem State.receive_loader {f : Frame} {handed : Frame → State → State}
    (h : ∀ u : State, (handed f u).loader = u.loader) (s : State) : (s.receive f handed).loader = s.loader := by
  rcases s.receive_loader_or_handed f handed with hkept | ⟨u, hu, hhanded⟩
  · exact hkept
  · rw [hhanded, h u, hu]

/-! ### What each command does to the loader -/

/-- The loader before and after a command: only the four start commands and RESTART move it (R178 to R184). -/
inductive LoaderMove : Instr → Loader → Loader → Prop
  | keeps (c : Instr) (l : Loader) : LoaderMove c l l
  | resets (l : Loader) : LoaderMove .reset l Loader.atReset
  | released (l : Loader) (held : l.held = true) :
      LoaderMove .resetRelease l { l with held := false, readLeft := some Config.readTicks, shift := [] }
  | loads (b : List Byte) (l : Loader) (life : l.life = .loading) (left : l.readLeft = some 0)
      (valid : blockValid b = true) :
      LoaderMove (.readEnd b) l { l with
        life := .joining, readLeft := none, shift := [], block := b, joinLeft := some (paramsOf b).joinWindow }
  | refuses (b : List Byte) (l : Loader) (life : l.life = .loading) (left : l.readLeft = some 0)
      (invalid : blockValid b = false) :
      LoaderMove (.readEnd b) l { l with life := .unconfigured, readLeft := none, shift := [], block := b }
  | joins (levels : BitVec 4) (l : Loader) (life : l.life = .joining) (left : l.joinLeft = some 0) :
      LoaderMove (.joinWindowEnd levels) l { l with life := .running, joinLeft := none }
  | restarts (f : Frame) (l : Loader) :
      LoaderMove (.restart f) l { Loader.atReset with held := false, readLeft := some Config.readTicks }

/-- A command that leaves the loader as it was. -/
theorem LoaderMove.of_eq {c : Instr} {l l' : Loader} (h : l' = l) : LoaderMove c l l' := h ▸ .keeps c l

/-- RESET_RELEASE begins the read of a held station. -/
theorem loaderMove_resetRelease {s t : State} (h : exec .resetRelease s = .next t) :
    LoaderMove .resetRelease s.loader t.loader := by
  cases h
  split
  · exact .released _ (by assumption)
  · exact .keeps _ _

/-- READ_END at the end of a read loads a valid block and refuses any other (R179 to R181). -/
theorem loaderMove_readEnd {b : List Byte} {s t : State} (h : exec (.readEnd b) s = .next t) :
    LoaderMove (.readEnd b) s.loader t.loader := by
  cases h
  split
  · rename_i hend
    obtain ⟨hlife, hleft⟩ : s.loader.life = .loading ∧ s.loader.readLeft = some 0 := by
      simpa [expired] using hend
    cases hvalid : blockValid b
    case true =>
      rw [State.judgeBlock_loader_of_valid (s := s.endRead b) hvalid]
      exact .loads b s.loader hlife hleft hvalid
    case false =>
      rw [State.judgeBlock_loader_of_invalid (s := s.endRead b) hvalid]
      exact .refuses b s.loader hlife hleft hvalid
  · exact .keeps _ _

/-- JOIN_WINDOW_END moves a station whose join window has run out (R182). -/
theorem loaderMove_joinWindowEnd {levels : BitVec 4} {s t : State} (h : exec (.joinWindowEnd levels) s = .next t) :
    LoaderMove (.joinWindowEnd levels) s.loader t.loader := by
  cases h
  split
  · rename_i hend
    obtain ⟨hlife, hleft⟩ : s.loader.life = .joining ∧ s.loader.joinLeft = some 0 := by
      simpa [expired] using hend
    rw [State.enterRunning_loader]
    exact .joins levels s.loader hlife hleft
  · exact .keeps _ _

/-- RESTART begins a read when its payload is accepted (R184). -/
theorem loaderMove_restart {f : Frame} {s t : State} (h : exec (.restart f) s = .next t) :
    LoaderMove (.restart f) s.loader t.loader := by
  cases h
  rcases s.receive_loader_or_handed f State.takeRestart with hkept | ⟨u, hu, hhanded⟩
  · exact .of_eq hkept
  · rw [hhanded, State.takeRestart]
    split
    · exact .restarts f s.loader
    · exact .of_eq hu

/-- What a command does to the loader is one of the moves. -/
theorem exec_loaderMove {c : Instr} {s t : State} (h : exec c s = .next t) : LoaderMove c s.loader t.loader := by
  cases c with
  | reset => cases h; exact .resets _
  | resetRelease => exact loaderMove_resetRelease h
  | readEnd b => exact loaderMove_readEnd h
  | joinWindowEnd levels => exact loaderMove_joinWindowEnd h
  | restart f => exact loaderMove_restart h
  | carrierStart => cases h; exact .of_eq (State.ite_loader rfl rfl)
  | ifgEnd => cases h; exact .of_eq (State.ite_loader rfl rfl)
  | roundEnd => cases h; exact .of_eq (State.ite_loader rfl rfl)
  | transmitStart => cases h; exact .of_eq s.slotStarts_loader
  | readbackMismatch => cases h; split <;> exact .keeps _ _
  | ownComplete =>
    cases h
    split
    case h_1 => exact .of_eq (State.ite_loader s.completeEnd_loader rfl)
    all_goals exact .keeps _ _
  | ownAborted =>
    cases h
    split
    case h_1 => exact .of_eq (State.ite_loader rfl s.abortedEnd_loader)
    all_goals exact .keeps _ _
  | delimiterFound => cases h; split <;> exact .keeps _ _
  | delimiterSearchEnded =>
    cases h
    split
    case h_1 => exact .of_eq (State.ite_loader rfl rfl)
    all_goals exact .keeps _ _
  | badEpisode => cases h; exact .of_eq (State.lineFrameEnd_loader fun _ => rfl)
  | foreignFrame => cases h; exact .of_eq (State.lineFrameEnd_loader fun _ => rfl)
  | clash => cases h; exact .of_eq (State.lineFrameEnd_loader fun _ => s.clashEnd_loader)
  | unjudgedFrameEnd => cases h; exact .of_eq (State.ite_loader (State.ite_loader rfl rfl) rfl)
  | beacon f => cases h; exact .of_eq (State.receive_loader (State.takeBeacon_loader f) s)
  | edge f => cases h; exact .of_eq (State.receive_loader (State.takeEdgeReport_loader f) s)
  | schedule f => cases h; exact .of_eq (State.receive_loader (State.takeSchedule_loader f) s)
  | stage f => cases h; exact .of_eq (State.receive_loader (State.takeStage_loader f) s)
  | release f => cases h; exact .of_eq (State.receive_loader (State.takeRelease_loader f) s)
  | cancelQueue f => cases h; exact .of_eq (State.receive_loader (State.takeCancel_loader f) s)
  | cancelStaged f => cases h; exact .of_eq (State.receive_loader (State.takeCancel_loader f) s)
  | cancelOutput f => cases h; exact .of_eq (State.receive_loader (State.takeCancel_loader f) s)
  | cancelNoScope f => cases h; exact .of_eq (State.receive_loader (State.takeCancel_loader f) s)
  | probeStatus f => cases h; exact .of_eq (State.receive_loader (State.takeProbe_loader f) s)
  | probePeers f => cases h; exact .of_eq (State.receive_loader (State.takeProbe_loader f) s)
  | probeLeadsLo f => cases h; exact .of_eq (State.receive_loader (State.takeProbe_loader f) s)
  | probeLeadsHi f => cases h; exact .of_eq (State.receive_loader (State.takeProbe_loader f) s)
  | probeQueue f => cases h; exact .of_eq (State.receive_loader (State.takeProbe_loader f) s)
  | probeIgnored f => cases h; exact .of_eq (State.receive_loader (State.takeProbe_loader f) s)
  | clear f => cases h; exact .of_eq (State.receive_loader (State.takeClear_loader f) s)
  | report f => cases h; exact .of_eq (State.receive_loader (fun _ => rfl) s)
  | unknownKind k f => cases h; exact .of_eq (State.receive_loader (fun _ => rfl) s)
  | inputEdge n level => cases h; exact .of_eq (State.ite_loader (s.takeSample_loader n level) rfl)
  | inputSample n level => cases h; exact .of_eq (State.ite_loader (s.takeSample_loader n level) rfl)
  | dueDelivery => cases h; exact .of_eq (State.ite_loader rfl (s.busTick.finishCancel_loader.trans s.busTick_loader))
  | onPhaseExpiry c => cases h; exact .of_eq (State.ite_loader rfl rfl)
  | offPhaseExpiry c => cases h; exact .of_eq (State.ite_loader rfl rfl)
  | recoverExpiry c => cases h; exact .of_eq (State.ite_loader rfl rfl)
  | beaconTimerExpiry => cases h; exact .of_eq (State.ite_loader s.startBeacon_loader rfl)
  | announcedTimerExpiry => cases h; exact .of_eq (State.ite_loader rfl rfl)
  | silenceTimerExpiry x => cases h; exact .of_eq (State.ite_loader rfl rfl)
  | candidateExpiry => cases h; exact .of_eq (State.ite_loader rfl rfl)
  | stageLapse c => cases h; exact .of_eq (State.ite_loader rfl rfl)

/-! ### When a read begins -/

/-- A move of the loader begins a read only at the release of a held station or by a RESTART. -/
theorem LoaderMove.begins_read {c : Instr} {l l' : Loader} (h : LoaderMove c l l') (hidle : l.readLeft = none)
    (hread : l'.readLeft ≠ none) : (l.held = true ∧ c = .resetRelease) ∨ ∃ f, c = .restart f := by
  cases h with
  | keeps => exact absurd hidle hread
  | resets => exact absurd rfl hread
  | released l held => exact .inl ⟨held, rfl⟩
  | loads => exact absurd rfl hread
  | refuses => exact absurd rfl hread
  | joins => exact absurd hidle hread
  | restarts f l => exact .inr ⟨f, rfl⟩

/-- A tick of the local reference begins no read. -/
theorem State.localTick_readLeft_of_none {s : State} (h : s.loader.readLeft = none) :
    s.localTick.loader.readLeft = none := by
  have hcount : s.countDown.loader.readLeft = none := congrArg tickTimer h
  unfold State.localTick
  split
  · exact h
  split
  · exact hcount
  · exact hcount

/-! ### The obligation -/

/-- Settles O7: the life state after READ_END is the outcome of the judgment, which is the conjunction of the
checks; and of all that a step can do to the loader only two moves begin a read. -/
theorem readEndJudgesTheGlobalChecks : Obligations.ReadEndJudgesTheGlobalChecks := by
  refine ⟨fun b s hlen hlife hleft => ?judgment, fun s t hstep hidle hread => ?begin⟩
  case judgment =>
    refine ⟨_, exec_readEnd_of_read b hlife hleft, ?_⟩
    rw [← blockValid_iff hlen]
    cases hvalid : blockValid b
    case true =>
      rw [State.judgeBlock_loader_of_valid (s := s.endRead b) hvalid]
      exact ⟨.inl rfl, rfl, by simp⟩
    case false =>
      rw [State.judgeBlock_loader_of_invalid (s := s.endRead b) hvalid]
      exact ⟨.inr rfl, rfl, by simp⟩
  case begin =>
    cases hpending : s.pending with
    | nil =>
      have htick : t = s.localTick := by simpa [step, hpending] using hstep.symm
      exact absurd (htick ▸ State.localTick_readLeft_of_none hidle) hread
    | cons c rest =>
      have hexec : exec c (s.withPending rest) = .next t := by simpa [step, hpending] using hstep
      rcases (exec_loaderMove hexec).begins_read hidle hread with ⟨hheld, rfl⟩ | ⟨f, rfl⟩
      · exact .inl ⟨hheld, rfl⟩
      · exact .inr ⟨f, rfl⟩

end Sys2Proof.Machine
end

section
/-! PROOF. What a command keeps: the waiting commands, the model's counter, the attached memory, the configuration
values, bus time and the fault flags, with the few commands that change one of them set apart. -/

namespace Sys2Proof.Machine

/-! ### An operation that stays, and a command that moves bus time forward -/

/-- Nothing of what waits, of the model's counter, of the attached memory, of the configuration values and of bus
time has changed, and every fault flag that was set is set. -/
structure State.Stays (s t : State) : Prop where
  pending : t.pending = s.pending
  choice : t.choice = s.choice
  memory : t.ext.memory = s.ext.memory
  cfg : t.cfg = s.cfg
  time : t.timebase.busTime = s.timebase.busTime
  flags : ∀ x : Flag, s.flag x = true → t.flag x = true

/-- As `Stays`, but that bus time may have moved forward. -/
structure State.Moves (s t : State) : Prop where
  pending : t.pending = s.pending
  choice : t.choice = s.choice
  memory : t.ext.memory = s.ext.memory
  cfg : t.cfg = s.cfg
  time : t.timebase.busTime = s.timebase.busTime ∨ 0 < signedDiff t.timebase.busTime s.timebase.busTime
  flags : ∀ x : Flag, s.flag x = true → t.flag x = true

/-- Other fields than these have changed at most. -/
theorem State.Stays.of_fields {s t : State}
    (same : (t.pending, t.choice, t.ext.memory, t.cfg, t.timebase.busTime, t.faults.flags) =
      (s.pending, s.choice, s.ext.memory, s.cfg, s.timebase.busTime, s.faults.flags)) : s.Stays t := by
  simp only [Prod.mk.injEq] at same
  obtain ⟨pending, choice, memory, cfg, time, flags⟩ := same
  exact ⟨pending, choice, memory, cfg, time, fun x h => by rwa [State.flag, flags]⟩

theorem State.Stays.refl (s : State) : s.Stays s := .of_fields rfl

theorem State.Stays.trans {s t u : State} (h₁ : s.Stays t) (h₂ : t.Stays u) : s.Stays u :=
  ⟨h₂.pending.trans h₁.pending, h₂.choice.trans h₁.choice, h₂.memory.trans h₁.memory,
    h₂.cfg.trans h₁.cfg, h₂.time.trans h₁.time, fun x h => h₂.flags x (h₁.flags x h)⟩

/-- What stays has not moved. -/
theorem State.Stays.moves {s t : State} (h : s.Stays t) : s.Moves t :=
  ⟨h.pending, h.choice, h.memory, h.cfg, .inl h.time, h.flags⟩

theorem State.Moves.trans_stays {s t u : State} (h₁ : s.Moves t) (h₂ : t.Stays u) : s.Moves u :=
  ⟨h₂.pending.trans h₁.pending, h₂.choice.trans h₁.choice, h₂.memory.trans h₁.memory,
    h₂.cfg.trans h₁.cfg, by rw [h₂.time]; exact h₁.time, fun x h => h₂.flags x (h₁.flags x h)⟩

theorem State.Stays.trans_moves {s t u : State} (h₁ : s.Stays t) (h₂ : t.Moves u) : s.Moves u :=
  ⟨h₂.pending.trans h₁.pending, h₂.choice.trans h₁.choice, h₂.memory.trans h₁.memory,
    h₂.cfg.trans h₁.cfg, by rw [← h₁.time]; exact h₂.time, fun x h => h₂.flags x (h₁.flags x h)⟩

/-- An operation that acts on a condition stays when it acts by an operation that stays. -/
theorem State.Stays.ite {p : Prop} [Decidable p] {s t u : State} (ht : s.Stays t) (hu : s.Stays u) :
    s.Stays (if p then t else u) := by
  split
  · exact ht
  · exact hu

/-! ### The shared operations stay -/

theorem State.setFlag_stays (f : Flag) (s : State) : s.Stays (s.setFlag f) :=
  ⟨rfl, rfl, rfl, rfl, rfl, fun x h => by rw [State.setFlag_flag, h, Bool.true_or]⟩

theorem State.setFlagIf_stays (b : Bool) (f : Flag) (s : State) : s.Stays (s.setFlagIf b f) :=
  .ite (s.setFlag_stays f) (.refl s)

theorem State.reject_stays (r : RejectReason) (s : State) : s.Stays (s.reject r) :=
  ⟨rfl, rfl, rfl, rfl, rfl, (s.reject_raised r).kept⟩

theorem State.join_stays (r : Request) (s : State) : s.Stays (s.join r) := by
  obtain ⟨l, h⟩ := s.join_footprint r
  rw [h]
  exact .of_fields rfl

theorem State.takeBeacon_stays (f : Frame) (s : State) : s.Stays (s.takeBeacon f) :=
  .ite (.refl s) (.of_fields rfl)

theorem State.takeEdgeReport_stays (f : Frame) (s : State) : s.Stays (s.takeEdgeReport f) := by
  have hraised := s.takeEdgeReport_raised f
  obtain ⟨q, v, u, h⟩ := s.takeEdgeReport_footprint f
  rw [h] at hraised ⊢
  exact ⟨by simp, by simp, by simp, by simp, by simp, hraised.kept⟩

theorem State.takeSchedule_stays (f : Frame) (s : State) : s.Stays (s.takeSchedule f) := by
  have hraised := s.takeSchedule_raised f
  obtain ⟨q, v, u, h⟩ := s.takeSchedule_footprint f
  rw [h] at hraised ⊢
  exact ⟨by simp, by simp, by simp, by simp, by simp, hraised.kept⟩

theorem State.takeStage_stays (f : Frame) (s : State) : s.Stays (s.takeStage f) := by
  have hraised := s.takeStage_raised f
  obtain ⟨g, u, h⟩ := s.takeStage_footprint f
  rw [h] at hraised ⊢
  exact ⟨by simp, by simp, by simp, by simp, by simp, hraised.kept⟩

theorem State.takeRelease_stays (f : Frame) (s : State) : s.Stays (s.takeRelease f) := by
  have hraised := s.takeRelease_raised f
  obtain ⟨g, q, v, u, h⟩ := s.takeRelease_footprint f
  rw [h] at hraised ⊢
  exact ⟨by simp, by simp, by simp, by simp, by simp, hraised.kept⟩

theorem State.takeCancel_stays (f : Frame) (s : State) : s.Stays (s.takeCancel f) := by
  have hraised := s.takeCancel_raised f
  obtain ⟨g, q, v, u, w, h⟩ := s.takeCancel_footprint f
  rw [h] at hraised ⊢
  exact ⟨by simp, by simp, by simp, by simp, by simp, hraised.kept⟩

/-- Serving a snapshot changes the peer table at most (R160). -/
theorem State.served_footprint (sel : Selector) (s : State) : ∃ p, s.served sel = s.withPeers p := by
  cases sel <;> exact ⟨_, rfl⟩

theorem State.acceptProbe_stays (f : Frame) (sel : Selector) (s : State) : s.Stays (s.acceptProbe f sel) := by
  obtain ⟨p, h⟩ := s.served_footprint sel
  have hfilled : ∀ m, s.Stays ((s.withPeers p).withFaults { s.faults with latch := m }) := fun _ => .of_fields rfl
  rw [State.acceptProbe, h]
  exact (hfilled _).trans (State.join_stays .report _)

theorem State.takeProbe_stays (f : Frame) (s : State) : s.Stays (s.takeProbe f) := by
  unfold State.takeProbe
  split
  · exact .refl s
  split
  · exact .refl s
  · exact s.acceptProbe_stays f _

theorem State.updateSlot_stays (n : InputId) (c : Capture) (s : State) : s.Stays (s.updateSlot n c) := by
  unfold State.updateSlot
  split
  · exact State.Stays.trans (.of_fields (by rfl)) (State.join_stays _ _)
  split
  · split
    · exact State.Stays.trans (.of_fields (by rfl)) (State.setFlag_stays _ _)
    · exact .of_fields rfl
  · exact State.Stays.trans (.of_fields (by rfl)) (State.setFlag_stays _ _)

theorem State.judgeReport_stays (sender : StationId) (r : EdgeReport) (s : State) :
    s.Stays (s.judgeReport sender r) := by
  have hraised := s.judgeReport_raised sender r
  obtain ⟨q, v, u, h⟩ := s.judgeReport_footprint sender r
  rw [h] at hraised ⊢
  exact ⟨by simp, by simp, by simp, by simp, by simp, hraised.kept⟩

theorem State.acceptEdge_stays (n : InputId) (rising : Bool) (time : BusTime) (s : State) :
    s.Stays (s.acceptEdge n rising time) := by
  have hcounted : s.Stays (s.updateInput n fun i => { i with edgeCount := s.inputs[n].edgeCount + 1 }) := .of_fields rfl
  unfold State.acceptEdge
  exact (hcounted.trans (State.judgeReport_stays _ _ _)).trans (State.updateSlot_stays _ _ _)

theorem State.takeSample_stays (n : InputId) (level : Bool) (s : State) : s.Stays (s.takeSample n level) := by
  have hsampled : s.Stays ((s.seeLevel n level).updateInput n
      (Input.afterSample level s.cfg.inputs[n].period (s.filtered n level))) := .of_fields rfl
  unfold State.takeSample
  dsimp only
  split
  · exact .ite (hsampled.trans (State.acceptEdge_stays _ _ _ _)) hsampled
  all_goals exact hsampled

theorem State.frameEnd_stays (s : State) : s.Stays s.frameEnd := .of_fields rfl

theorem State.badEnd_stays (s : State) : s.Stays s.badEnd :=
  (s.frameEnd_stays.trans (State.setFlag_stays .lineError s.frameEnd)).trans (.of_fields (by rfl))

theorem State.clashEnd_stays (s : State) : s.Stays s.clashEnd := by
  have hmute : s.frameEnd.Stays s.frameEnd.enterMute := .trans (.of_fields (by rfl)) (State.setFlag_stays .idClash _)
  unfold State.clashEnd
  split
  · exact .of_fields rfl
  · exact s.frameEnd_stays.trans (hmute.trans (.of_fields (by rfl)))

theorem State.slotStarts_stays (s : State) : s.Stays s.slotStarts := by
  obtain ⟨x, e, r, i, h⟩ := s.slotStarts_footprint
  rw [h]
  exact .of_fields rfl

theorem State.edgeCompletes_stays (n : InputId) (s : State) : s.Stays (s.edgeCompletes n) := by
  obtain ⟨i, l, h⟩ := s.edgeCompletes_footprint n
  rw [h]
  exact .of_fields rfl

theorem State.ownerCompletes_stays (r : Request) (s : State) : s.Stays (s.ownerCompletes r) := by
  cases r with
  | edge n => exact s.edgeCompletes_stays n
  | report => exact .of_fields rfl
  | beacon => exact .refl s

theorem State.headCompletes_stays (s : State) : s.Stays s.headCompletes := by
  unfold State.headCompletes
  split
  · exact .refl s
  · rename_i r _ _
    obtain ⟨l, h⟩ := s.popHead.withdrawBeacon_footprint r
    have hlist : s.Stays (s.popHead.withdrawBeacon r) := by rw [h]; exact .of_fields rfl
    exact hlist.trans (State.ownerCompletes_stays _ _)

theorem State.completeEnd_stays (s : State) : s.Stays s.completeEnd :=
  s.frameEnd_stays.trans (s.frameEnd.headCompletes_stays.trans (.of_fields (by rfl)))

theorem State.edgeRetried_stays (n : InputId) (s : State) : s.Stays (s.edgeRetried n) :=
  .ite (State.Stays.trans (.of_fields (by rfl)) (State.setFlag_stays _ _)) (.refl s)

theorem State.edgeDropped_stays (n : InputId) (s : State) : s.Stays (s.edgeDropped n) :=
  .ite (State.Stays.trans (.trans (.of_fields (by rfl)) (State.setFlag_stays _ _)) (State.join_stays _ _)) (.of_fields rfl)

theorem State.ownerRetries_stays (r : Request) (s : State) : s.Stays (s.ownerRetries r) := by
  cases r with
  | edge n => exact s.edgeRetried_stays n
  | report => exact .refl s
  | beacon => exact .refl s

theorem State.ownerDrops_stays (r : Request) (s : State) : s.Stays (s.ownerDrops r) := by
  cases r with
  | edge n => exact s.edgeDropped_stays n
  | report => exact .of_fields rfl
  | beacon => exact .refl s

theorem State.headAborts_stays (s : State) : s.Stays s.headAborts := by
  unfold State.headAborts
  split
  · exact .refl s
  split
  · exact State.Stays.trans (.of_fields (by rfl)) (State.ownerRetries_stays _ _)
  · exact State.Stays.trans (.trans (.of_fields (by rfl)) (State.setFlag_stays _ _)) (State.ownerDrops_stays _ _)

theorem State.abortedEnd_stays (s : State) : s.Stays s.abortedEnd :=
  s.frameEnd_stays.trans (s.frameEnd.headAborts_stays.trans (.of_fields (by rfl)))

theorem State.startBeacon_stays (s : State) : s.Stays s.startBeacon := by
  obtain ⟨l, h⟩ := s.startBeacon_footprint
  rw [h]
  exact .of_fields rfl

theorem State.enterRunning_stays (levels : BitVec 4) (s : State) : s.Stays (s.enterRunning levels) := by
  unfold State.enterRunning
  dsimp only
  split
  · exact .of_fields rfl
  · exact State.Stays.trans (.of_fields (by rfl)) (State.startBeacon_stays _)

theorem State.finishCancel_stays (s : State) : s.Stays s.finishCancel := by
  obtain ⟨q, v, h⟩ := s.finishCancel_footprint
  rw [h]
  exact .of_fields rfl

theorem State.candidateExpires_stays (s : State) : s.Stays s.candidateExpires :=
  State.Stays.trans (.of_fields (by rfl)) (State.setFlag_stays _ _)

theorem State.lapse_stays (c : ChannelId) (s : State) : s.Stays (s.lapse c) :=
  State.Stays.trans (.of_fields (by rfl)) (State.setFlag_stays _ _)

/-! ### The operations that move bus time -/

/-- A tick takes bus time one forward (R1). -/
theorem signedDiff_succ (b : BusTime) : signedDiff (b + 1) b = 1 := by
  rw [tick_eq_advance, signedDiff_of_advance b 1 (by decide) (by decide)]

theorem State.busTick_moves (s : State) : s.Moves s.busTick := by
  have hraised := s.busTick_raised
  obtain ⟨v, u, h⟩ := s.busTick_footprint
  rw [h] at hraised ⊢
  have hone : 0 < signedDiff (s.timebase.busTime + 1) s.timebase.busTime := (signedDiff_succ _).symm ▸ Int.one_pos
  exact ⟨by simp, by simp, by simp, by simp, .inr (by simpa using hone), hraised.kept⟩

/-- Bus time after a lead: where it was, or that lead further, which then is positive (R8, R9). -/
theorem State.takeLead_busTime (lead : Int) (s : State) :
    (s.takeLead lead).timebase.busTime = s.timebase.busTime ∨
      (0 < lead ∧ (s.takeLead lead).timebase.busTime = advance s.timebase.busTime lead) := by
  have hstep : ∀ u : State, (u.stepTime lead).timebase.busTime = advance u.timebase.busTime lead := by
    intro u
    obtain ⟨v, w, h⟩ := State.stepNotice_footprint u.timebase.busTime (advance u.timebase.busTime lead)
      (u.withTimebase { u.timebase with busTime := advance u.timebase.busTime lead })
    unfold State.stepTime
    dsimp only
    rw [h]
    rfl
  unfold State.takeLead
  split
  · split
    · exact .inr ⟨by assumption, hstep s⟩
    · exact .inl rfl
  split
  · exact .inl rfl
  have hpos : 0 < lead := by have : ¬lead ≤ (s.cfg.slack : Int) := by assumption
                             omega
  split
  · exact .inr ⟨hpos, hstep (s.withTimebase _)⟩
  unfold State.farLead
  split
  · exact .inl rfl
  split
  · exact .inr ⟨hpos, rfl⟩
  · exact .inl rfl

theorem State.takeLead_moves {lead : Int} (hlead : lead < 2 ^ 39) (s : State) : s.Moves (s.takeLead lead) := by
  have hraised := s.takeLead_raised lead
  have htime : (s.takeLead lead).timebase.busTime = s.timebase.busTime ∨
      0 < signedDiff (s.takeLead lead).timebase.busTime s.timebase.busTime := by
    rcases s.takeLead_busTime lead with hsame | ⟨hpos, hadvance⟩
    · exact .inl hsame
    · refine .inr ?_
      rwa [hadvance, signedDiff_of_advance _ _ (by omega) hlead]
  obtain ⟨t, k, q, v, u, h⟩ := s.takeLead_footprint lead
  rw [h] at hraised htime ⊢
  exact ⟨rfl, rfl, rfl, rfl, htime, hraised.kept⟩

/-- The frame end and stages 1 to 3 of an arrival move. -/
theorem State.arrived_moves (f : Frame) (a : BusTime) (s : State) : s.Moves (s.arrived f a) :=
  s.frameEnd_stays.trans_moves
    ((State.takeLead_moves (leadOf_range _ _ _).2 s.frameEnd).trans_stays (.of_fields rfl))

/-! ### Frame ends -/

/-- A frame end on the line moves when its judgment does. -/
theorem State.lineFrameEnd_cases (judged : BusTime → State → State) (s : State) :
    s.Stays (s.lineFrameEnd judged) ∨ ∃ a, s.lineFrameEnd judged = judged a s := by
  unfold State.lineFrameEnd
  split
  · cases s.line.episode
    case captured a => exact .inr ⟨a, rfl⟩
    case searching n => exact .inl s.badEnd_stays
    case fragment => exact .inl s.badEnd_stays
    case unjudged => exact .inl s.frameEnd_stays
    case own t => exact .inl (.refl s)
    case quiet => exact .inl (.refl s)
  · exact .inl (.of_fields rfl)

theorem State.lineFrameEnd_stays {judged : BusTime → State → State} {s : State}
    (h : ∀ a, s.Stays (judged a s)) : s.Stays (s.lineFrameEnd judged) := by
  rcases s.lineFrameEnd_cases judged with hstays | ⟨a, hjudged⟩
  · exact hstays
  · rw [hjudged]
    exact h a

/-- A good frame moves, or its payload is handed on after what has moved. -/
theorem State.receive_cases (f : Frame) (handed : Frame → State → State) (s : State) :
    s.Moves (s.receive f handed) ∨ ∃ u, s.Moves u ∧ s.receive f handed = handed f u := by
  rcases s.lineFrameEnd_cases (State.goodFrame f handed) with hstays | ⟨a, hjudged⟩
  · exact .inl hstays.moves
  rw [State.receive, hjudged, State.goodFrame]
  split
  · exact .inl s.frameEnd_stays.moves
  split
  · exact .inl s.clashEnd_stays.moves
  · change s.Moves ((s.arrived f a).handOn f handed) ∨ _
    rw [State.handOn]
    split
    · exact .inr ⟨_, s.arrived_moves f a, if_pos (by assumption)⟩
    · exact .inl (s.arrived_moves f a)

/-- A good frame moves when its payload's owner stays. -/
theorem State.receive_moves {f : Frame} {handed : Frame → State → State}
    (h : ∀ u : State, u.Stays (handed f u)) (s : State) : s.Moves (s.receive f handed) := by
  rcases s.receive_cases f handed with hmoves | ⟨u, hu, hhanded⟩
  · exact hmoves
  · rw [hhanded]
    exact hu.trans_stays (h u)

/-! ### What each command does -/

/-- A command moves, or it is one of the four that do more. -/
inductive Effect : Instr → State → State → Prop
  | ordinary {c : Instr} {s t : State} (moves : s.Moves t) : Effect c s t
  | resets (s : State) : Effect .reset s s.hardReset
  | judges (b : List Byte) (s : State) : Effect (.readEnd b) s (s.endRead b).judgeBlock
  | restarts (f : Frame) {s u : State} (moves : s.Moves u) : Effect (.restart f) s u.restartNow
  | clears (f : Frame) {s u : State} (moves : s.Moves u) : Effect (.clear f) s (u.takeClear f)

theorem Effect.of_stays {c : Instr} {s t : State} (h : s.Stays t) : Effect c s t := .ordinary h.moves

theorem effect_restart (f : Frame) (s : State) : Effect (.restart f) s (s.receive f State.takeRestart) := by
  rcases s.receive_cases f State.takeRestart with hmoves | ⟨u, hu, hhanded⟩
  · exact .ordinary hmoves
  · rw [hhanded, State.takeRestart]
    split
    · exact .restarts f hu
    · exact .ordinary hu

theorem effect_clear (f : Frame) (s : State) : Effect (.clear f) s (s.receive f State.takeClear) := by
  rcases s.receive_cases f State.takeClear with hmoves | ⟨u, hu, hhanded⟩
  · exact .ordinary hmoves
  · rw [hhanded]
    exact .clears f hu

/-- What each command does, by what it is. -/
theorem exec_effect {c : Instr} {s t : State} (h : exec c s = .next t) : Effect c s t := by
  cases c with
  | reset => cases h; exact .resets s
  | readEnd b =>
    cases h
    split
    · exact .judges b s
    · exact .of_stays (.refl s)
  | restart f => cases h; exact effect_restart f s
  | clear f => cases h; exact effect_clear f s
  | resetRelease => cases h; exact .of_stays (.ite (.of_fields rfl) (.refl s))
  | joinWindowEnd levels => cases h; exact .of_stays (.ite (s.enterRunning_stays levels) (.refl s))
  | carrierStart => cases h; exact .of_stays (.ite (.of_fields rfl) (.of_fields rfl))
  | ifgEnd => cases h; exact .of_stays (.ite (.of_fields rfl) (.refl s))
  | roundEnd => cases h; exact .of_stays (.ite (.of_fields rfl) (.refl s))
  | transmitStart => cases h; exact .of_stays s.slotStarts_stays
  | readbackMismatch => cases h; split <;> exact .of_stays (.of_fields rfl)
  | ownComplete =>
    cases h
    split
    case h_1 => exact .of_stays (.ite s.completeEnd_stays (.refl s))
    all_goals exact .of_stays (.refl s)
  | ownAborted =>
    cases h
    split
    case h_1 => exact .of_stays (.ite (.refl s) s.abortedEnd_stays)
    all_goals exact .of_stays (.refl s)
  | delimiterFound => cases h; split <;> exact .of_stays (.of_fields rfl)
  | delimiterSearchEnded =>
    cases h
    split
    case h_1 => exact .of_stays (.ite (.of_fields rfl) (.refl s))
    all_goals exact .of_stays (.refl s)
  | badEpisode => cases h; exact .of_stays (State.lineFrameEnd_stays fun _ => s.badEnd_stays)
  | foreignFrame => cases h; exact .of_stays (State.lineFrameEnd_stays fun _ => s.frameEnd_stays)
  | clash => cases h; exact .of_stays (State.lineFrameEnd_stays fun _ => s.clashEnd_stays)
  | unjudgedFrameEnd => cases h; exact .of_stays (.ite (.ite s.frameEnd_stays (.refl s)) (.of_fields rfl))
  | beacon f => cases h; exact .ordinary (State.receive_moves (State.takeBeacon_stays f) s)
  | edge f => cases h; exact .ordinary (State.receive_moves (State.takeEdgeReport_stays f) s)
  | schedule f => cases h; exact .ordinary (State.receive_moves (State.takeSchedule_stays f) s)
  | stage f => cases h; exact .ordinary (State.receive_moves (State.takeStage_stays f) s)
  | release f => cases h; exact .ordinary (State.receive_moves (State.takeRelease_stays f) s)
  | cancelQueue f => cases h; exact .ordinary (State.receive_moves (State.takeCancel_stays f) s)
  | cancelStaged f => cases h; exact .ordinary (State.receive_moves (State.takeCancel_stays f) s)
  | cancelOutput f => cases h; exact .ordinary (State.receive_moves (State.takeCancel_stays f) s)
  | cancelNoScope f => cases h; exact .ordinary (State.receive_moves (State.takeCancel_stays f) s)
  | probeStatus f => cases h; exact .ordinary (State.receive_moves (State.takeProbe_stays f) s)
  | probePeers f => cases h; exact .ordinary (State.receive_moves (State.takeProbe_stays f) s)
  | probeLeadsLo f => cases h; exact .ordinary (State.receive_moves (State.takeProbe_stays f) s)
  | probeLeadsHi f => cases h; exact .ordinary (State.receive_moves (State.takeProbe_stays f) s)
  | probeQueue f => cases h; exact .ordinary (State.receive_moves (State.takeProbe_stays f) s)
  | probeIgnored f => cases h; exact .ordinary (State.receive_moves (State.takeProbe_stays f) s)
  | report f => cases h; exact .ordinary (State.receive_moves (fun u => .refl u) s)
  | unknownKind k f => cases h; exact .ordinary (State.receive_moves (fun u => .refl u) s)
  | inputEdge n level => cases h; exact .of_stays (.ite (s.takeSample_stays n level) (.refl s))
  | inputSample n level => cases h; exact .of_stays (.ite (s.takeSample_stays n level) (.refl s))
  | dueDelivery =>
    cases h
    split
    · exact .of_stays (.refl s)
    · exact .ordinary (s.busTick_moves.trans_stays (State.finishCancel_stays _))
  | onPhaseExpiry c => cases h; exact .of_stays (.ite (.of_fields rfl) (.refl s))
  | offPhaseExpiry c => cases h; exact .of_stays (.ite (.of_fields rfl) (.refl s))
  | recoverExpiry c => cases h; exact .of_stays (.ite (.of_fields rfl) (.refl s))
  | beaconTimerExpiry => cases h; exact .of_stays (.ite s.startBeacon_stays (.refl s))
  | announcedTimerExpiry => cases h; exact .of_stays (.ite (.of_fields rfl) (.refl s))
  | silenceTimerExpiry x => cases h; exact .of_stays (.ite (.of_fields rfl) (.refl s))
  | candidateExpiry => cases h; exact .of_stays (.ite s.candidateExpires_stays (.refl s))
  | stageLapse c => cases h; exact .of_stays (.ite (s.lapse_stays c) (.refl s))

end Sys2Proof.Machine
end

section
/-! PROOF. What follows from the effect of each command: what no command touches, the course of bus time (R1), and the
stickiness of the fault flags (R163, R168, R177). -/

namespace Sys2Proof.Machine

/-! ### The judgment at the end of a read -/

/-- The flags after the values of a block are taken: BINDING_REJECTED joins them when the block has a binding entry
that its checks disable (R128). -/
def flagsAfterLoad (b : List Byte) (flags : BitVec 13) : BitVec 13 :=
  if rejectsBinding (paramsOf b).channels b then flags ||| flagBit .bindingRejected else flags

/-- A load clears no flag. -/
theorem flagIn_flagsAfterLoad {b : List Byte} {flags : BitVec 13} {x : Flag} (h : flagIn flags x = true) :
    flagIn (flagsAfterLoad b flags) x = true := by
  unfold flagsAfterLoad
  split
  · rw [flagIn_or, h, Bool.true_or]
  · exact h

/-- What the blocks take from a valid block: the configuration values, the bindings, and in the fault unit the mask
and BINDING_REJECTED (R181, R128, R165). -/
theorem State.takeValues_eq (b : List Byte) (s : State) :
    s.takeValues b = ((s.withCfg (paramsOf b)).withBindings (loadBindings (paramsOf b).channels b)).withFaults
      { s.faults with mask := maskOf b, flags := flagsAfterLoad b s.faults.flags } := by
  unfold State.takeValues State.setFlagIf flagsAfterLoad
  split <;> rfl

/-- The judgment of a block changes the configuration values, the bindings, the fault unit, the loader and the line at
most, and clears no flag (R179 to R181). -/
theorem State.judgeBlock_footprint (s : State) :
    ∃ p b u l n, s.judgeBlock = ((((s.withCfg p).withBindings b).withFaults u).withLoader l).withLine n ∧
      ∀ x : Flag, flagIn s.faults.flags x = true → flagIn u.flags x = true := by
  unfold State.judgeBlock
  split
  · refine ⟨paramsOf s.loader.block, loadBindings (paramsOf s.loader.block).channels s.loader.block,
      { s.faults with mask := maskOf s.loader.block, flags := flagsAfterLoad s.loader.block s.faults.flags },
      (s.enterJoining s.loader.block).loader, (s.enterJoining s.loader.block).line, ?_,
      fun x => flagIn_flagsAfterLoad⟩
    rw [State.enterJoining, State.takeValues_eq]
    rfl
  · refine ⟨s.cfg, s.bindings, s.faults, s.enterUnconfigured.loader, s.line, ?_, fun _ h => h⟩
    cases s
    rfl

/-! ### What the entry to JOINING leaves of a station whose read has ended -/

theorem State.endRead_enterJoining_pending (b : List Byte) (s : State) :
    ((s.endRead b).enterJoining b).pending = s.pending := by
  simp [State.enterJoining, State.takeValues_eq, State.openReceiver, State.endRead]

theorem State.endRead_enterJoining_ext (b : List Byte) (s : State) :
    ((s.endRead b).enterJoining b).ext = s.ext := by
  simp [State.enterJoining, State.takeValues_eq, State.openReceiver, State.endRead]

theorem State.endRead_enterJoining_choice (b : List Byte) (s : State) :
    ((s.endRead b).enterJoining b).choice = s.choice := by
  simp [State.enterJoining, State.takeValues_eq, State.openReceiver, State.endRead]

theorem State.endRead_enterJoining_timebase (b : List Byte) (s : State) :
    ((s.endRead b).enterJoining b).timebase = s.timebase := by
  simp [State.enterJoining, State.takeValues_eq, State.openReceiver, State.endRead]

theorem State.endRead_enterJoining_peers (b : List Byte) (s : State) :
    ((s.endRead b).enterJoining b).peers = s.peers := by
  simp [State.enterJoining, State.takeValues_eq, State.openReceiver, State.endRead]

theorem State.endRead_enterJoining_inputs (b : List Byte) (s : State) :
    ((s.endRead b).enterJoining b).inputs = s.inputs := by
  simp [State.enterJoining, State.takeValues_eq, State.openReceiver, State.endRead]

theorem State.endRead_enterJoining_bindings (b : List Byte) (s : State) :
    ((s.endRead b).enterJoining b).bindings = loadBindings (paramsOf b).channels b := by
  simp [State.enterJoining, State.takeValues_eq, State.openReceiver, State.endRead]

theorem State.endRead_enterJoining_cfg (b : List Byte) (s : State) :
    ((s.endRead b).enterJoining b).cfg = paramsOf b := by
  simp [State.enterJoining, State.takeValues_eq, State.openReceiver, State.endRead]

theorem State.endRead_enterJoining_mode (b : List Byte) (s : State) :
    ((s.endRead b).enterJoining b).line.mode = s.line.mode := by
  simp [State.enterJoining, State.takeValues_eq, State.openReceiver, State.endRead]

theorem State.endRead_enterJoining_lastSender (b : List Byte) (s : State) :
    ((s.endRead b).enterJoining b).line.lastSender = s.line.lastSender := by
  simp [State.enterJoining, State.takeValues_eq, State.openReceiver, State.endRead]

theorem State.endRead_enterJoining_txList (b : List Byte) (s : State) :
    ((s.endRead b).enterJoining b).line.txList = s.line.txList := by
  simp [State.enterJoining, State.takeValues_eq, State.openReceiver, State.endRead]

theorem State.endRead_enterJoining_attempts (b : List Byte) (s : State) :
    ((s.endRead b).enterJoining b).line.attempts = s.line.attempts := by
  simp [State.enterJoining, State.takeValues_eq, State.openReceiver, State.endRead]

theorem State.endRead_enterJoining_beaconTimer (b : List Byte) (s : State) :
    ((s.endRead b).enterJoining b).line.beaconTimer = s.line.beaconTimer := by
  simp [State.enterJoining, State.takeValues_eq, State.openReceiver, State.endRead]

theorem State.endRead_enterJoining_announcedTimer (b : List Byte) (s : State) :
    ((s.endRead b).enterJoining b).line.announcedTimer = s.line.announcedTimer := by
  simp [State.enterJoining, State.takeValues_eq, State.openReceiver, State.endRead]

theorem State.endRead_enterJoining_episode (b : List Byte) (s : State) :
    ((s.endRead b).enterJoining b).line.episode = if s.ext.carrier then .unjudged else .quiet := by
  simp [State.enterJoining, State.takeValues_eq, State.openReceiver, State.endRead]

theorem State.endRead_enterJoining_latch (b : List Byte) (s : State) :
    ((s.endRead b).enterJoining b).faults.latch = s.faults.latch := by
  simp [State.enterJoining, State.takeValues_eq, State.openReceiver, State.endRead]

theorem State.endRead_enterJoining_queue (b : List Byte) (s : State) :
    ((s.endRead b).enterJoining b).queue = s.queue := by
  simp [State.enterJoining, State.takeValues_eq, State.openReceiver, State.endRead]

theorem State.endRead_enterJoining_staging (b : List Byte) (s : State) :
    ((s.endRead b).enterJoining b).staging = s.staging := by
  simp [State.enterJoining, State.takeValues_eq, State.openReceiver, State.endRead]

theorem State.endRead_enterJoining_channels (b : List Byte) (s : State) :
    ((s.endRead b).enterJoining b).channels = s.channels := by
  simp [State.enterJoining, State.takeValues_eq, State.openReceiver, State.endRead]

/-! ### What stages 1 to 3 of an arrival leave -/

@[simp] theorem State.stages_staging (f : Frame) (lead : Int) (s : State) : (s.stages f lead).staging = s.staging := by
  obtain ⟨t, k, q, v, u, hl⟩ := s.takeLead_footprint lead
  simp [State.stages, State.spokeLast, State.hearPeer, State.updatePeer, hl]

@[simp] theorem State.stages_cfg (f : Frame) (lead : Int) (s : State) : (s.stages f lead).cfg = s.cfg := by
  obtain ⟨t, k, q, v, u, hl⟩ := s.takeLead_footprint lead
  simp [State.stages, State.spokeLast, State.hearPeer, State.updatePeer, hl]

@[simp] theorem State.stages_inputs (f : Frame) (lead : Int) (s : State) : (s.stages f lead).inputs = s.inputs := by
  obtain ⟨t, k, q, v, u, hl⟩ := s.takeLead_footprint lead
  simp [State.stages, State.spokeLast, State.hearPeer, State.updatePeer, hl]

@[simp] theorem State.stages_bindings (f : Frame) (lead : Int) (s : State) : (s.stages f lead).bindings = s.bindings := by
  obtain ⟨t, k, q, v, u, hl⟩ := s.takeLead_footprint lead
  simp [State.stages, State.spokeLast, State.hearPeer, State.updatePeer, hl]

@[simp] theorem State.stages_ext (f : Frame) (lead : Int) (s : State) : (s.stages f lead).ext = s.ext := by
  obtain ⟨t, k, q, v, u, hl⟩ := s.takeLead_footprint lead
  simp [State.stages, State.spokeLast, State.hearPeer, State.updatePeer, hl]

/-! ### What no command touches -/

/-- Every command answers a next state (log 19). -/
theorem exec_answers (c : Instr) (s : State) : ∃ t, exec c s = .next t := by
  cases c <;> exact ⟨_, rfl⟩

/-- No command touches what waits, the model's counter and the attached memory. -/
theorem Effect.keeps_own {c : Instr} {s t : State} (h : Effect c s t) :
    t.pending = s.pending ∧ t.choice = s.choice ∧ t.ext.memory = s.ext.memory := by
  cases h with
  | ordinary moves => exact ⟨moves.pending, moves.choice, moves.memory⟩
  | resets =>
    obtain ⟨x, hx⟩ := s.outsideAfterReset_footprint
    have hmemory : s.outsideAfterReset.memory = s.ext.memory := by rw [hx]
    exact ⟨rfl, rfl, hmemory⟩
  | judges b =>
    obtain ⟨p, d, u, l, n, h, -⟩ := (s.endRead b).judgeBlock_footprint
    rw [h]
    exact ⟨by simp [State.endRead], by simp [State.endRead], by simp [State.endRead]⟩
  | @restarts f _ u moves =>
    obtain ⟨x, hx⟩ := u.outsideAfterReset_footprint
    have hmemory : u.outsideAfterReset.memory = u.ext.memory := by rw [hx]
    exact ⟨moves.pending, moves.choice, hmemory.trans moves.memory⟩
  | @clears f _ u moves =>
    obtain ⟨l, b, w, h⟩ := u.takeClear_footprint f
    rw [h]
    exact ⟨moves.pending, moves.choice, moves.memory⟩

/-- The configuration values change only at RESET, RESTART and READ_END (R181, R183, R184). -/
theorem Effect.keeps_cfg {c : Instr} {s t : State} (h : Effect c s t) :
    t.cfg = s.cfg ∨ c = .reset ∨ (∃ b, c = .readEnd b) ∨ ∃ f, c = .restart f := by
  cases h with
  | ordinary moves => exact .inl moves.cfg
  | resets => exact .inr (.inl rfl)
  | judges b => exact .inr (.inr (.inl ⟨b, rfl⟩))
  | restarts f => exact .inr (.inr (.inr ⟨f, rfl⟩))
  | @clears f _ u moves =>
    obtain ⟨l, b, w, h⟩ := u.takeClear_footprint f
    rw [h]
    exact .inl moves.cfg

/-! ### The count of the timers, field by field -/

@[simp] theorem State.countDown_pending (s : State) : s.countDown.pending = s.pending := by simp [State.countDown]
@[simp] theorem State.countDown_ext (s : State) : s.countDown.ext = s.ext := by simp [State.countDown]
@[simp] theorem State.countDown_choice (s : State) : s.countDown.choice = s.choice := by simp [State.countDown]
@[simp] theorem State.countDown_scopeLeft (s : State) : s.countDown.scopeLeft = s.scopeLeft := by
  simp [State.countDown]
@[simp] theorem State.countDown_loader (s : State) : s.countDown.loader = s.loader.tick s.ext.memory := by
  simp [State.countDown]
@[simp] theorem State.countDown_cfg (s : State) : s.countDown.cfg = s.cfg := by simp [State.countDown]
@[simp] theorem State.countDown_timebase (s : State) : s.countDown.timebase =
    { s.timebase with candidate := s.timebase.candidate.map Candidate.tick } := by simp [State.countDown]
@[simp] theorem State.countDown_line (s : State) : s.countDown.line = s.line.tick := by simp [State.countDown]
@[simp] theorem State.countDown_bindings (s : State) : s.countDown.bindings = s.bindings := by
  simp [State.countDown]
@[simp] theorem State.countDown_queue (s : State) : s.countDown.queue = s.queue := by simp [State.countDown]
@[simp] theorem State.countDown_faults (s : State) : s.countDown.faults = s.faults := by simp [State.countDown]

@[simp] theorem State.countDown_peers (s : State) :
    s.countDown.peers = mapFamily (fun _ p => p.tick) s.peers := by simp [State.countDown]
@[simp] theorem State.countDown_inputs (s : State) :
    s.countDown.inputs = mapFamily (fun _ i => i.tick) s.inputs := by simp [State.countDown]
@[simp] theorem State.countDown_staging (s : State) :
    s.countDown.staging = mapFamily (fun _ g => g.map Staged.tick) s.staging := by simp [State.countDown]
@[simp] theorem State.countDown_channels (s : State) :
    s.countDown.channels = mapFamily (fun _ k => k.tick) s.channels := by simp [State.countDown]

theorem State.countDown_peer (s : State) (x : StationId) : s.countDown.peers[x] = s.peers[x].tick := by
  rw [s.countDown_peers, mapFamily_getElem]

theorem State.countDown_input (s : State) (n : InputId) : s.countDown.inputs[n] = s.inputs[n].tick := by
  rw [s.countDown_inputs, mapFamily_getElem]

theorem State.countDown_staged (s : State) (c : ChannelId) : s.countDown.staging[c] = s.staging[c].map Staged.tick := by
  rw [s.countDown_staging, mapFamily_getElem]

theorem State.countDown_channel (s : State) (c : ChannelId) : s.countDown.channels[c] = s.channels[c].tick := by
  rw [s.countDown_channels, mapFamily_getElem]

/-! ### A tick of the local reference -/

/-- A tick of a station that is not held counts every timer; beyond that only what waits, the counter of free orders
and bus time change, and bus time by one at most (R1). -/
theorem State.localTick_footprint {s : State} (hheld : s.loader.held = false) :
    ∃ l n b, s.localTick = ((s.countDown.withPending l).withChoice n).withTimebase
        { s.countDown.timebase with busTime := b } ∧
      (b = s.timebase.busTime ∨ b = s.timebase.busTime + 1) := by
  rw [State.localTick, if_neg (by simp [hheld])]
  split
  · exact ⟨s.countDown.pending, s.countDown.choice, s.countDown.timebase.busTime + 1, rfl, .inr (by simp)⟩
  · exact ⟨s.countDown.instant, s.countDown.choice + s.countDown.instant.length, s.countDown.timebase.busTime,
      rfl, .inl (by simp)⟩

/-- A held station stands still (R183). -/
theorem State.localTick_of_held {s : State} (hheld : s.loader.held = true) : s.localTick = s := if_pos hheld

/-- A tick of the local reference leaves what stands outside. -/
theorem State.localTick_ext (s : State) : s.localTick.ext = s.ext := by
  cases hheld : s.loader.held
  case true => rw [State.localTick_of_held hheld]
  case false =>
    obtain ⟨l, n, b, h, -⟩ := State.localTick_footprint hheld
    simp [h]

/-- No step writes the attached memory (R178). -/
theorem step_memory {s t : State} (h : step s = .next t) : t.ext.memory = s.ext.memory := by
  cases hpending : s.pending with
  | nil =>
    have htick : t = s.localTick := by simpa [step, hpending] using h.symm
    rw [htick, s.localTick_ext]
  | cons c rest =>
    have hexec : exec c (s.withPending rest) = .next t := by simpa [step, hpending] using h
    exact (exec_effect hexec).keeps_own.2.2

/-- Settles O1: by the definition of a step. -/
theorem stepRunsTheFrontCommand : Obligations.StepRunsTheFrontCommand := by
  intro c rest s hpending
  simp only [step, hpending]
  rfl

/-- Settles O2: each clause is read off the effect of the command; a tick leaves what stands outside. -/
theorem whatNoCommandTouches : Obligations.WhatNoCommandTouches := by
  refine ⟨fun c s => ?_, fun s t h => step_memory h, fun c s t h => (exec_effect h).keeps_cfg⟩
  obtain ⟨t, ht⟩ := exec_answers c s
  obtain ⟨hpending, hchoice, -⟩ := (exec_effect ht).keeps_own
  exact ⟨t, ht, hpending, hchoice⟩

/-! ### The course of bus time -/

/-- A command leaves bus time, moves it forward, or sets it to 0 as a reset (R1, R19). -/
theorem Effect.busTime {c : Instr} {s t : State} (h : Effect c s t) :
    t.timebase.busTime = s.timebase.busTime ∨ 0 < signedDiff t.timebase.busTime s.timebase.busTime ∨
      (t.timebase.busTime = 0 ∧ (c = .reset ∨ ∃ f, c = .restart f)) := by
  cases h with
  | ordinary moves => exact moves.time.imp_right .inl
  | resets => exact .inr (.inr ⟨rfl, .inl rfl⟩)
  | judges b =>
    obtain ⟨p, d, u, l, n, h, -⟩ := (s.endRead b).judgeBlock_footprint
    rw [h]
    exact .inl rfl
  | restarts f moves => exact .inr (.inr ⟨rfl, .inr ⟨f, rfl⟩⟩)
  | @clears f _ u moves =>
    obtain ⟨l, b, w, h⟩ := u.takeClear_footprint f
    rw [h]
    exact moves.time.imp_right .inl

/-- A tick of the local reference leaves bus time, which a command it brings then advances, or advances it by one
(R1). -/
theorem State.localTick_busTime (s : State) :
    s.localTick.timebase.busTime = s.timebase.busTime ∨
      s.localTick.timebase.busTime = s.timebase.busTime + 1 := by
  cases hheld : s.loader.held
  case true => exact .inl (by rw [State.localTick_of_held hheld])
  case false =>
    obtain ⟨l, n, b, h, hb⟩ := State.localTick_footprint hheld
    rw [h]
    exact hb

/-- Settles O59: by the effect of each command, and by what a tick does with bus time. -/
theorem busTimeOnlyMovesForward : Obligations.BusTimeOnlyMovesForward := by
  refine ⟨fun c s t h => (exec_effect h).busTime, fun s t hpending h => ?_⟩
  have htick : t = s.localTick := by simpa [step, hpending] using h.symm
  rw [htick]
  refine s.localTick_busTime.imp_right fun hnext => ?_
  rw [hnext, signedDiff_succ]

/-! ### The fault flags -/

/-- The named flags leave a set, the others stay. -/
theorem flagIn_and_not (flags named : BitVec 13) (x : Flag) :
    flagIn (flags &&& ~~~named) x = (flagIn flags x && !flagIn named x) := by
  have hbound : flagNumber x < 13 := by cases x <;> decide
  simp [flagIn, hbound]

/-- A set of one flag holds that flag alone. -/
theorem flagIn_flagBit (f x : Flag) : flagIn (flagBit f) x = decide (x = f) := by
  have h := flagIn_or 0 f x
  simpa [flagIn] using h

/-- A flag is in a set exactly when the two have a bit in common. -/
theorem flagIn_iff_and_ne_zero (flags : BitVec 13) (x : Flag) :
    flagIn flags x = true ↔ flags &&& flagBit x ≠ 0 := by
  have hbit : ∀ n, n < 13 → ((flagBit x).getLsbD n = true ↔ n = flagNumber x) := by
    cases x <;> decide
  have hbound : flagNumber x < 13 := by cases x <;> decide
  rw [and_ne_zero_iff_shared]
  constructor
  · exact fun h => ⟨_, hbound, h, (hbit _ hbound).mpr rfl⟩
  · rintro ⟨n, hn, hflag, hx⟩
    rw [(hbit n hn).mp hx] at hflag
    exact hflag

/-- A CLEAR clears the flags it names at most (R168). -/
theorem State.takeClear_flag {f : Frame} {s : State} {x : Flag} (h : s.flag x = true) :
    (s.takeClear f).flag x = true ∨ flagIn ((field16 f.payload 0).setWidth 13) x = true := by
  have hcleared : flagIn (s.faults.flags &&& ~~~((field16 f.payload 0).setWidth 13)) x = true ∨
      flagIn ((field16 f.payload 0).setWidth 13) x = true := by
    rw [flagIn_and_not, show flagIn s.faults.flags x = true from h]
    cases flagIn ((field16 f.payload 0).setWidth 13) x <;> simp
  unfold State.takeClear
  split
  · exact .inl ((s.reject_stays .malformed).flags x h)
  · dsimp only
    split
    · obtain ⟨l, hl⟩ := (s.clearFlags ((field16 f.payload 0).setWidth 13)).endMute_footprint
      rw [hl]
      exact hcleared
    · exact hcleared

/-- Settles O60: what moves keeps every flag; of the other effects a reset clears all, a RESTART ID_CLASH alone, and a
CLEAR those it names. -/
theorem flagsAreSticky : Obligations.FlagsAreSticky := by
  intro c s t x hexec hflag
  cases exec_effect hexec with
  | ordinary moves => exact .inl (moves.flags x hflag)
  | resets => exact .inr (.inl rfl)
  | judges b =>
    obtain ⟨p, d, u, l, n, h, hkept⟩ := (s.endRead b).judgeBlock_footprint
    rw [h]
    exact .inl (hkept x hflag)
  | @restarts f _ u moves =>
    have hbefore : flagIn u.faults.flags x = true := moves.flags x hflag
    by_cases hclash : x = .idClash
    · exact .inr (.inr (.inl ⟨⟨f, rfl⟩, hclash⟩))
    · refine .inl ((flagIn_and_not u.faults.flags (flagBit .idClash) x).trans ?_)
      simp [hbefore, flagIn_flagBit, hclash]
  | @clears f _ u moves =>
    refine (State.takeClear_flag (moves.flags x hflag)).imp_right fun hnamed => ?_
    exact .inr (.inr ⟨f, rfl, (flagIn_iff_and_ne_zero _ x).mp hnamed⟩)

end Sys2Proof.Machine
end

section
/-! PROOF. Every step keeps the conduct of the blocks in each life state (11_start_and_restart.md 11.1) and the memory
read (R178). -/

namespace Sys2Proof.Machine

/-! ### An empty queue has nothing to deliver -/

/-- A queue that is empty already is not changed by being emptied. -/
theorem State.withQueue_of_empty {s : State} (h : s.queue = []) : s.withQueue [] = s := by
  cases s
  cases h
  rfl

/-- A step notice to an empty queue changes nothing (R56). -/
theorem State.stepNotice_of_empty {s : State} (h : s.queue = []) (before after : BusTime) :
    s.stepNotice before after = s := by
  simp [State.stepNotice, h, State.withQueue_of_empty h, State.setFlagIf]

/-- A tick of bus time over an empty queue is the tick alone (R53). -/
theorem State.busTick_of_empty {s : State} (h : s.queue = []) :
    s.busTick = s.withTimebase { s.timebase with busTime := s.timebase.busTime + 1 } := by
  simp only [State.busTick, h, List.filter_nil, List.foldl_nil]
  exact State.withQueue_of_empty h

/-- In UNSYNCED, with an empty queue, a lead moves bus time at most (R8). -/
theorem State.takeLead_of_unsynced_empty {s : State} (hsync : s.timebase.sync = .unsynced) (hqueue : s.queue = [])
    (lead : Int) : ∃ b, s.takeLead lead = s.withTimebase { s.timebase with busTime := b } := by
  unfold State.takeLead
  rw [hsync]
  dsimp only
  split
  · exact ⟨advance s.timebase.busTime lead, State.stepNotice_of_empty
      (s := s.withTimebase { s.timebase with busTime := advance s.timebase.busTime lead }) hqueue _ _⟩
  · exact ⟨s.timebase.busTime, rfl⟩

/-! ### When the conduct is kept -/

/-- Whether the station is active is told by its loader. -/
theorem State.active_congr {s t : State} (h : t.loader = s.loader) : t.active = s.active := by
  rw [State.active, State.active, h]

/-- A RUNNING station is active. -/
theorem State.active_of_running {s : State} (h : s.loader.life = .running) : s.active = true :=
  s.active_iff_joining_or_running.mpr (.inr h)

/-- A station that is not active is not RUNNING. -/
theorem State.not_running_of_inactive {s : State} (h : s.active = false) : s.loader.life ≠ .running :=
  fun hrunning => by simp [State.active_of_running hrunning] at h

/-- The loader and the timebase as they were, but that a candidate may have gone. -/
theorem LoaderSound.congr {s t : State} (h : LoaderSound s) (loader : t.loader = s.loader)
    (sync : t.timebase.sync = s.timebase.sync)
    (candidate : t.timebase.candidate.isSome = true → s.timebase.candidate.isSome = true ∨
      s.loader.life = .running) : LoaderSound t where
  syncedIffRunning := by rw [sync, loader]; exact h.syncedIffRunning
  candidateOnlyRunning hc := by rw [loader]; exact (candidate hc).elim h.candidateOnlyRunning id
  heldIsLoading := by rw [loader]; exact h.heldIsLoading
  readIffLoading := by rw [loader]; exact h.readIffLoading
  joinIffJoining := by rw [loader]; exact h.joinIffJoining

/-- The blocks of a station that is not RUNNING as they were, but that an episode may have changed to another that is
not the station's own. -/
theorem NotRunningEmpty.congr {s t : State} (h : NotRunningEmpty s) (queue : t.queue = s.queue := by rfl)
    (staging : t.staging = s.staging := by rfl) (channels : t.channels = s.channels := by rfl)
    (inputs : t.inputs = s.inputs := by rfl) (txList : t.line.txList = s.line.txList := by rfl)
    (latch : t.faults.latch = s.faults.latch := by rfl)
    (beacon : t.line.beaconTimer = s.line.beaconTimer := by rfl)
    (announced : t.line.announcedTimer = s.line.announcedTimer := by rfl)
    (own : ∀ x, t.line.episode = .own x → s.line.episode = .own x := by exact fun _ h => h) :
    NotRunningEmpty t where
  queueEmpty := queue.trans h.queueEmpty
  stagingEmpty := by rw [staging]; exact h.stagingEmpty
  channelsIdle := by rw [channels]; exact h.channelsIdle
  inputsAtReset := by rw [inputs]; exact h.inputsAtReset
  noRequest := txList.trans h.noRequest
  noSnapshot := latch.trans h.noSnapshot
  beaconStopped := beacon.trans h.beaconStopped
  notAnnounced := announced.trans h.notAnnounced
  notTransmitting x hx := h.notTransmitting x (own x hx)

/-- The blocks of an inactive station as they were. -/
theorem InactiveEmpty.congr {s t : State} (h : InactiveEmpty s) (episode : t.line.episode = s.line.episode := by rfl)
    (round : t.line.round = s.line.round := by rfl) (peers : t.peers = s.peers := by rfl)
    (bindings : t.bindings = s.bindings := by rfl) : InactiveEmpty t where
  receiverInactive := episode.trans h.receiverInactive
  noRound := round.trans h.noRound
  peersAbsent := by rw [peers]; exact h.peersAbsent
  bindingsDisabled := by rw [bindings]; exact h.bindingsDisabled

/-- An operation that leaves the loader and the timebase state keeps the conduct when it keeps what the other blocks
hold outside RUNNING. -/
theorem LifeConduct.congr {s t : State} (h : LifeConduct s) (empty : s.loader.life ≠ .running → NotRunningEmpty t)
    (inactive : s.active = false → InactiveEmpty t) (loader : t.loader = s.loader := by rfl)
    (sync : t.timebase.sync = s.timebase.sync := by rfl)
    (candidate : t.timebase.candidate.isSome = true → s.timebase.candidate.isSome = true ∨ s.loader.life = .running
      := by exact .inl) : LifeConduct t where
  loader := h.loader.congr loader sync candidate
  notRunning := by rw [loader]; exact empty
  inactive := by rw [State.active_congr loader]; exact inactive

/-- At a RUNNING station every operation that leaves the loader and the timebase state keeps the conduct. -/
theorem LifeConduct.of_running {s t : State} (h : LifeConduct s) (running : s.loader.life = .running)
    (loader : t.loader = s.loader := by rfl) (sync : t.timebase.sync = s.timebase.sync := by rfl) : LifeConduct t :=
  h.congr (fun hnot => absurd running hnot)
    (fun hin => absurd running (State.not_running_of_inactive hin)) loader sync fun _ => .inr running

/-- At an active station it is enough to keep what the blocks hold outside RUNNING. -/
theorem LifeConduct.of_active {s t : State} (h : LifeConduct s) (active : s.active = true)
    (empty : s.loader.life ≠ .running → NotRunningEmpty t) (loader : t.loader = s.loader := by rfl)
    (timebase : t.timebase = s.timebase := by rfl) : LifeConduct t :=
  h.congr empty (fun hin => by simp [active] at hin) loader (by rw [timebase]) (by rw [timebase]; exact .inl)

/-! ### What tells that the station is RUNNING, or active -/

/-- An own transmission is a RUNNING station's. -/
theorem LifeConduct.running_of_own {s : State} {x : Transmission} (h : LifeConduct s)
    (own : s.line.episode = .own x) : s.loader.life = .running := by
  by_contra hnot
  exact (h.notRunning hnot).notTransmitting x own

/-- A channel that is not at rest is a RUNNING station's. -/
theorem LifeConduct.running_of_phase {s : State} {c : ChannelId} (h : LifeConduct s)
    (phase : s.channels[c].phase ≠ .idle) : s.loader.life = .running := by
  by_contra hnot
  exact phase (by rw [(h.notRunning hnot).channelsIdle c]; rfl)

/-- A carrier episode is an active station's. -/
theorem LifeConduct.active_of_episode {s : State} (h : LifeConduct s) (episode : s.line.episode ≠ .quiet) :
    s.active = true := by
  by_contra hnot
  exact episode (h.inactive (Bool.eq_false_of_not_eq_true hnot)).receiverInactive

/-- A round is an active station's. -/
theorem LifeConduct.active_of_round {s : State} (h : LifeConduct s) (round : s.line.round ≠ none) :
    s.active = true := by
  by_contra hnot
  exact round (h.inactive (Bool.eq_false_of_not_eq_true hnot)).noRound

/-- A round whose IFG ends is in progress. -/
theorem State.round_of_atIfgEnd {s : State} (h : s.atIfgEnd = true) : s.line.round ≠ none := by
  intro hnone
  simp [State.atIfgEnd, hnone] at h

/-- A round that ends is in progress. -/
theorem State.round_of_atRoundEnd {s : State} (h : s.atRoundEnd = true) : s.line.round ≠ none := by
  intro hnone
  simp [State.atRoundEnd, hnone] at h

/-- Outside RUNNING a slot start does nothing (R148). -/
theorem State.slotStarts_of_not_running {s : State} (h : s.loader.life ≠ .running) : s.slotStarts = s := by
  simp [State.slotStarts, State.isRunning, h]

/-! ### The resets -/

/-- A family of copies gives the copy at every index. -/
theorem getElem_replicate_fin {α : Type} {n : Nat} (x : α) (i : Fin n) : (Vector.replicate n x)[i] = x := by
  simp

/-- What a reset leaves of the blocks is empty. -/
theorem notRunningEmpty_reset : NotRunningEmpty State.reset where
  queueEmpty := rfl
  stagingEmpty := getElem_replicate_fin _
  channelsIdle := getElem_replicate_fin _
  inputsAtReset := getElem_replicate_fin _
  noRequest := rfl
  noSnapshot := rfl
  beaconStopped := rfl
  notAnnounced := rfl
  notTransmitting _ := nofun

/-- What a reset leaves of the receiver, the peers and the bindings is empty. -/
theorem inactiveEmpty_reset : InactiveEmpty State.reset where
  receiverInactive := rfl
  noRound := rfl
  peersAbsent := getElem_replicate_fin _
  bindingsDisabled := getElem_replicate_fin _

/-- The reset state conducts itself as LOADING says. -/
theorem lifeConduct_reset : LifeConduct State.reset where
  loader := ⟨by decide, nofun, fun _ => rfl, by decide, by decide⟩
  notRunning _ := notRunningEmpty_reset
  inactive _ := inactiveEmpty_reset

/-- A RESTART leaves the blocks as a reset does and a read begun. -/
theorem lifeConduct_restartNow (s : State) : LifeConduct s.restartNow where
  loader := ⟨⟨nofun, nofun⟩, nofun, fun _ => rfl, ⟨fun _ => ⟨rfl, rfl⟩, fun _ => rfl⟩, nofun, nofun⟩
  notRunning _ := notRunningEmpty_reset.congr
  inactive _ := inactiveEmpty_reset.congr

/-! ### The moves of the loader -/

/-- The release of a reset starts the read of a held station. -/
theorem LifeConduct.startRead {s : State} (h : LifeConduct s) (held : s.loader.held = true) :
    LifeConduct s.startRead := by
  have hloading := h.loader.heldIsLoading held
  exact {
    loader := ⟨h.loader.syncedIffRunning, h.loader.candidateOnlyRunning, fun _ => hloading,
      ⟨fun _ => ⟨hloading, rfl⟩, fun _ => rfl⟩, h.loader.joinIffJoining⟩
    notRunning := fun hnot => (h.notRunning hnot).congr
    inactive := fun hin => (h.inactive hin).congr }

/-- In LOADING the timebase is not SYNCED, holds no candidate, and no join window runs. -/
theorem LoaderSound.of_loading {s : State} (h : LoaderSound s) (hlife : s.loader.life = .loading) :
    s.timebase.sync ≠ .synced ∧ s.timebase.candidate.isSome ≠ true ∧ s.loader.joinLeft.isSome ≠ true := by
  refine ⟨fun hc => ?_, fun hc => ?_, fun hc => ?_⟩
  · simp [h.syncedIffRunning.mp hc] at hlife
  · simp [h.candidateOnlyRunning hc] at hlife
  · simp [h.joinIffJoining.mp hc] at hlife

/-- A read under way is that of a station that is not held. -/
theorem LoaderSound.not_held_of_read {s : State} {n : Nat} (h : LoaderSound s) (hread : s.loader.readLeft = some n) :
    s.loader.held ≠ true := by
  have := h.readIffLoading.mp (by simp [hread])
  simp [this.2]

/-- The end of a read that fails its checks. -/
theorem LifeConduct.readBad {s : State} (b : List Byte) (h : LifeConduct s) (hlife : s.loader.life = .loading)
    (hleft : s.loader.readLeft = some 0) : LifeConduct (s.endRead b).enterUnconfigured := by
  obtain ⟨hsync, hcandidate, hjoin⟩ := h.loader.of_loading hlife
  have hnot : s.loader.life ≠ .running := by simp [hlife]
  have hin : s.active = false := s.inactive_iff_loading_or_unconfigured.mpr (.inl hlife)
  exact {
    loader := ⟨⟨fun hc => absurd hc hsync, nofun⟩, fun hc => absurd hc hcandidate,
      fun hc => absurd hc (h.loader.not_held_of_read hleft), ⟨nofun, nofun⟩,
      ⟨fun hc => absurd hc hjoin, nofun⟩⟩
    notRunning := fun _ => (h.notRunning hnot).congr
    inactive := fun _ => (h.inactive hin).congr }

/-- The end of a read that passes its checks. -/
theorem LifeConduct.readGood {s : State} (b : List Byte) (h : LifeConduct s) (hlife : s.loader.life = .loading)
    (hleft : s.loader.readLeft = some 0) : LifeConduct ((s.endRead b).enterJoining b) := by
  obtain ⟨hsync, hcandidate, hjoin⟩ := h.loader.of_loading hlife
  have hnot : s.loader.life ≠ .running := by simp [hlife]
  rw [State.enterJoining, State.takeValues_eq]
  exact {
    loader := ⟨⟨fun hc => absurd hc hsync, nofun⟩, fun hc => absurd hc hcandidate,
      fun hc => absurd hc (h.loader.not_held_of_read hleft), ⟨nofun, nofun⟩, ⟨fun _ => rfl, fun _ => rfl⟩⟩
    notRunning := fun _ => (h.notRunning hnot).congr (own := fun x hx => by
      change (if s.ext.carrier = true then Episode.unjudged else Episode.quiet) = .own x at hx
      split at hx <;> cases hx)
    inactive := nofun }

/-- The end of the join window. -/
theorem LifeConduct.enterRunning {s : State} (levels : BitVec 4) (h : LifeConduct s)
    (hlife : s.loader.life = .joining) : LifeConduct (s.enterRunning levels) := by
  have hread : s.loader.readLeft.isSome ≠ true := fun hc => by simp [(h.loader.readIffLoading.mp hc).1] at hlife
  have hheld : s.loader.held ≠ true := fun hc => by simp [h.loader.heldIsLoading hc] at hlife
  have hloader := s.enterRunning_loader levels
  have hsync : (s.enterRunning levels).timebase.sync = .synced := by
    unfold State.enterRunning
    dsimp only
    split
    · rfl
    · obtain ⟨l, hl⟩ := State.startBeacon_footprint (State.firstSamples levels ((s.withLoader
        { s.loader with life := .running, joinLeft := none }).withTimebase { s.timebase with sync := .synced }))
      rw [hl]
      rfl
  exact {
    loader := by
      constructor
      · simp [hloader, hsync]
      · simp [hloader]
      · simp [hloader, hheld]
      · rw [hloader]
        exact ⟨fun hc => absurd hc hread, nofun⟩
      · rw [hloader]
        exact ⟨nofun, nofun⟩
    notRunning := fun hnot => absurd (by rw [hloader]) hnot
    inactive := fun hin => absurd (by rw [hloader]) (State.not_running_of_inactive hin) }

/-! ### The line -/

/-- A frame end of an episode that is not the station's own. -/
theorem LifeConduct.frameEnd {s : State} (h : LifeConduct s) (hreceiving : s.receiving) : LifeConduct s.frameEnd :=
  h.of_active hreceiving.1 fun hnot => (h.notRunning hnot).congr (own := nofun)

/-- The frame end of a bad episode. -/
theorem LifeConduct.badEnd {s : State} (h : LifeConduct s) (hreceiving : s.receiving) : LifeConduct s.badEnd :=
  h.of_active hreceiving.1 fun hnot => (h.notRunning hnot).congr (own := nofun)

/-- The frame end of a clash empties what mute does not hold. -/
theorem LifeConduct.clashEnd {s : State} (h : LifeConduct s) (hreceiving : s.receiving) : LifeConduct s.clashEnd := by
  unfold State.clashEnd
  split
  · exact h.of_active hreceiving.1 fun hnot => (h.notRunning hnot).congr (own := nofun)
  · refine h.of_active hreceiving.1 fun hnot => ?_
    have he := h.notRunning hnot
    exact he.congr (txList := he.noRequest.symm) (latch := he.noSnapshot.symm) (beacon := he.beaconStopped.symm)
      (announced := he.notAnnounced.symm) (own := nofun)

/-- Stages 1 to 3 of an arrival: outside RUNNING a lead finds an empty queue and an UNSYNCED timebase. -/
theorem LifeConduct.stages {s : State} (f : Frame) (lead : Int) (h : LifeConduct s) (hactive : s.active = true) :
    LifeConduct (s.stages f lead) := by
  unfold State.stages
  by_cases hrunning : s.loader.life = .running
  · obtain ⟨t, k, q, v, u, hlead⟩ := s.takeLead_footprint lead
    rw [hlead]
    exact h.of_running hrunning
  · have hempty := h.notRunning hrunning
    have hsync : s.timebase.sync = .unsynced := by
      cases hs : s.timebase.sync
      · rfl
      · exact absurd (h.loader.syncedIffRunning.mp hs) hrunning
    obtain ⟨b, hlead⟩ := State.takeLead_of_unsynced_empty hsync hempty.queueEmpty lead
    rw [hlead]
    exact h.congr (fun _ => hempty.congr) fun hin => by simp [hactive] at hin

/-- A scope of a CANCEL that acts finds nothing outside RUNNING. -/
theorem LifeConduct.cancelScope {s : State} (l : ScopeLeft) (h : LifeConduct s) : LifeConduct (s.cancelScope l) := by
  obtain ⟨scope, x, set, tag⟩ := l
  cases scope
  case queue =>
    refine h.congr (fun hnot => ?_) fun hin => (h.inactive hin).congr
    have he := h.notRunning hnot
    have hqueue : (s.cancelQueue x set tag).queue = s.queue := by
      simp [State.cancelQueue, he.queueEmpty]
    exact he.congr (queue := hqueue)
  case output =>
    refine h.congr (fun hnot => ?_) fun hin => (h.inactive hin).congr
    have he := h.notRunning hnot
    have hidle : ∀ c : ChannelId, (s.cancelOutput set).channels[c] = Channel.atReset := by
      intro c
      rw [s.cancelOutput_channel, he.channelsIdle c]
      exact ite_self _
    exact { he with channelsIdle := hidle }

/-! ### Time -/

/-- The tick of bus time finds an empty queue outside RUNNING. -/
theorem LifeConduct.busTick {s : State} (h : LifeConduct s) : LifeConduct s.busTick := by
  by_cases hrunning : s.loader.life = .running
  · obtain ⟨v, u, hb⟩ := s.busTick_footprint
    rw [hb]
    exact h.of_running hrunning
  · rw [State.busTick_of_empty (h.notRunning hrunning).queueEmpty]
    exact h.congr (fun hnot => (h.notRunning hnot).congr) fun hin => (h.inactive hin).congr

/-- A timer that counts is there after the count exactly when it was before. -/
@[simp] theorem tickTimer_isSome (t : Option Nat) : (tickTimer t).isSome = t.isSome := by
  cases t <;> rfl

/-- An episode that a tick leaves as the station's own was that before. -/
theorem Episode.own_of_tick {e : Episode} {x : Transmission} (h : e.tick = .own x) : ∃ t, e = .own t := by
  cases e
  case own t => exact ⟨t, rfl⟩
  all_goals cases h

/-- The count of the timers outside RUNNING finds none but those of the read and of the join window. -/
theorem NotRunningEmpty.countDown {s : State} (h : NotRunningEmpty s) : NotRunningEmpty s.countDown where
  queueEmpty := by rw [s.countDown_queue, h.queueEmpty]
  stagingEmpty c := by rw [s.countDown_staged, h.stagingEmpty c, Option.map_none]
  channelsIdle c := by rw [s.countDown_channel, h.channelsIdle c]; rfl
  inputsAtReset n := by rw [s.countDown_input, h.inputsAtReset n]; rfl
  noRequest := by rw [s.countDown_line, Line.tick, h.noRequest]
  noSnapshot := by rw [s.countDown_faults, h.noSnapshot]
  beaconStopped := by rw [s.countDown_line, Line.tick, h.beaconStopped]; rfl
  notAnnounced := by rw [s.countDown_line, Line.tick, h.notAnnounced]; rfl
  notTransmitting x hx := by
    rw [s.countDown_line] at hx
    obtain ⟨t, ht⟩ := Episode.own_of_tick hx
    exact h.notTransmitting t ht

/-- The count of the timers of an inactive station finds no episode, no round and no peer. -/
theorem InactiveEmpty.countDown {s : State} (h : InactiveEmpty s) : InactiveEmpty s.countDown where
  receiverInactive := by rw [s.countDown_line, Line.tick, h.receiverInactive]; rfl
  noRound := by rw [s.countDown_line, Line.tick, h.noRound]; rfl
  peersAbsent x := by rw [s.countDown_peer, h.peersAbsent x]; rfl
  bindingsDisabled i := by rw [s.countDown_bindings, h.bindingsDisabled i]

/-- The count of the timers moves no life state. -/
theorem LifeConduct.countDown {s : State} (h : LifeConduct s) : LifeConduct s.countDown := by
  have hlife : s.countDown.loader.life = s.loader.life := by rw [s.countDown_loader, Loader.tick]
  exact {
    loader := by
      constructor
      all_goals simp only [State.countDown_loader, State.countDown_timebase, Loader.tick, tickTimer_isSome,
        Option.isSome_map]
      · exact h.loader.syncedIffRunning
      · exact h.loader.candidateOnlyRunning
      · exact h.loader.heldIsLoading
      · exact h.loader.readIffLoading
      · exact h.loader.joinIffJoining
    notRunning := fun hnot => (h.notRunning (hlife ▸ hnot)).countDown
    inactive := fun hin => (h.inactive (by rwa [State.active, hlife] at hin)).countDown }

/-! ### Every operation keeps the conduct -/

/-- Every shared operation keeps the conduct of the blocks. -/
theorem kept_lifeConduct : Kept LifeConduct where
  pending _ _ h := h.congr (fun hnot => (h.notRunning hnot).congr) fun hin => (h.inactive hin).congr
  choice _ _ h := h.congr (fun hnot => (h.notRunning hnot).congr) fun hin => (h.inactive hin).congr
  scopeLeft _ _ h := h.congr (fun hnot => (h.notRunning hnot).congr) fun hin => (h.inactive hin).congr
  advance _ h _ := h.congr (fun hnot => (h.notRunning hnot).congr) fun hin => (h.inactive hin).congr
  quietLine _ h _ := h.congr (fun hnot => (h.notRunning hnot).congr) fun hin => (h.inactive hin).congr
  carrierJoins _ h _ := h.congr (fun hnot => (h.notRunning hnot).congr) fun hin => (h.inactive hin).congr
  hardReset _ _ := lifeConduct_reset.congr (fun _ => notRunningEmpty_reset.congr) fun _ => inactiveEmpty_reset.congr
  restart s _ _ := lifeConduct_restartNow s
  startRead _ h held := h.startRead held
  readBad _ b h hlife hleft _ := h.readBad b hlife hleft
  readGood _ b h hlife hleft _ := h.readGood b hlife hleft
  enterRunning _ levels h hlife _ := h.enterRunning levels hlife
  carrierBegins _ h hactive _ := h.of_active hactive fun hnot => (h.notRunning hnot).congr (own := nofun)
  delimiter _ _ h hsearch := h.of_active (h.active_of_episode (by simp [hsearch]))
    fun hnot => (h.notRunning hnot).congr (own := nofun)
  fragment _ h hsearch := h.of_active (h.active_of_episode (by simp [hsearch]))
    fun hnot => (h.notRunning hnot).congr (own := nofun)
  mismatch _ _ h hown := h.of_running (h.running_of_own hown)
  fixOrder _ h hend := h.of_active (h.active_of_round (State.round_of_atIfgEnd hend))
    fun hnot => (h.notRunning hnot).congr
  nextRound _ h hend := h.of_active (h.active_of_round (State.round_of_atRoundEnd hend))
    fun hnot => (h.notRunning hnot).congr
  slotStarts s h := by
    by_cases hrunning : s.loader.life = .running
    · obtain ⟨x, e, r, i, hslot⟩ := s.slotStarts_footprint
      rw [hslot]
      exact h.of_running hrunning
    · rwa [State.slotStarts_of_not_running hrunning]
  complete s _ h hown _ _ := by
    obtain ⟨i, l, a, u, hc⟩ := s.frameEnd.headCompletes_footprint
    rw [State.completeEnd, hc]
    exact h.of_running (h.running_of_own hown)
  aborted s _ h hown _ := by
    obtain ⟨i, l, a, u, ha⟩ := s.frameEnd.headAborts_footprint
    rw [State.abortedEnd, ha]
    exact h.of_running (h.running_of_own hown)
  badEnd _ h hreceiving := h.badEnd hreceiving
  frameEnd _ h hreceiving := h.frameEnd hreceiving
  clashEnd _ h hreceiving := h.clashEnd hreceiving
  stages _ f _ h hactive _ _ _ := h.stages f _ hactive
  beacon s f h hrunning _ _ := h.of_running hrunning (s.takeBeacon_loader f) (by
    unfold State.takeBeacon
    split <;> rfl)
  edge s f h hrunning := by
    obtain ⟨q, v, u, ht⟩ := s.takeEdgeReport_footprint f
    rw [ht]
    exact h.of_running hrunning
  schedule s f h hrunning := by
    obtain ⟨q, v, u, ht⟩ := s.takeSchedule_footprint f
    rw [ht]
    exact h.of_running hrunning
  stage s f h hrunning := by
    obtain ⟨g, u, ht⟩ := s.takeStage_footprint f
    rw [ht]
    exact h.of_running hrunning
  release s f h hrunning := by
    obtain ⟨g, q, v, u, ht⟩ := s.takeRelease_footprint f
    rw [ht]
    exact h.of_running hrunning
  cancelScope _ l h := h.cancelScope l
  cancelStaged _ _ _ _ h hrunning := h.of_running hrunning
  rejectCancel _ h hrunning := h.of_running hrunning
  probe s f h hrunning := by
    obtain ⟨p, u, l, ht⟩ := s.takeProbe_footprint f
    rw [ht]
    exact h.of_running hrunning
  clear s f h hrunning := by
    obtain ⟨l, b, u, ht⟩ := s.takeClear_footprint f
    rw [ht]
    exact h.of_running hrunning
  sample s n level h hrunning := by
    obtain ⟨x, i, q, v, l, u, ht⟩ := s.takeSample_footprint n level
    rw [ht]
    exact h.of_running hrunning
  busTick _ h _ := h.busTick
  onEnds _ c h hphase := h.of_running (h.running_of_phase (c := c) (hphase ▸ nofun))
  offEnds _ c h hphase := h.of_running (h.running_of_phase (c := c) (hphase ▸ nofun))
  recoverEnds _ c h hphase := h.of_running (h.running_of_phase (c := c) (hphase ▸ nofun))
  beaconTimer s h htimer := by
    have hrunning : s.loader.life = .running := by
      by_contra hnot
      simp [(h.notRunning hnot).beaconStopped] at htimer
    obtain ⟨l, hb⟩ := s.startBeacon_footprint
    rw [hb]
    exact h.of_running hrunning
  announcedTimer s h htimer := by
    have hrunning : s.loader.life = .running := by
      by_contra hnot
      simp [(h.notRunning hnot).notAnnounced] at htimer
    exact h.of_running hrunning
  silence s x h hpresent := h.congr (fun hnot => (h.notRunning hnot).congr) fun hin => by
    rw [(h.inactive hin).peersAbsent x] at hpresent
    cases hpresent
  candidate _ _ h hcandidate := h.of_running (h.loader.candidateOnlyRunning (by simp [hcandidate]))
  lapse s c _ h hfilled := by
    have hrunning : s.loader.life = .running := by
      by_contra hnot
      simp [(h.notRunning hnot).stagingEmpty c] at hfilled
    exact h.of_running hrunning
  countDown _ h _ := h.countDown

/-! ### The memory read -/

/-- The memory read follows the loader and the attached memory. -/
theorem ReadSound.congr {s t : State} (h : ReadSound s) (left : t.loader.readLeft = s.loader.readLeft)
    (shift : t.loader.shift = s.loader.shift) (memory : t.ext.memory = s.ext.memory) : ReadSound t where
  shifted n hn := by
    rw [shift, memory]
    exact h.shifted n (left ▸ hn)
  idle hn := by
    rw [shift]
    exact h.idle (left ▸ hn)

/-- Outside a read nothing is held. -/
theorem readSound_of_idle {t : State} (left : t.loader.readLeft = none) (shift : t.loader.shift = []) :
    ReadSound t where
  shifted n hn := by simp [left] at hn
  idle _ := shift

/-- Nothing has been shifted in at the beginning of a read. -/
theorem dataSamples_begin : dataSamples (readElapsed Config.readTicks) = 0 := by
  have hrise := Config.mckRise.isLt
  simp only [dataSamples, readElapsed]
  omega

/-- A read that begins has shifted nothing in. -/
theorem readSound_of_begin {t : State} (left : t.loader.readLeft = some Config.readTicks)
    (shift : t.loader.shift = []) : ReadSound t where
  shifted n hn := by
    obtain rfl : Config.readTicks = n := by simpa [left] using hn
    rw [shift, dataSamples_begin]
    exact ⟨le_rfl, rfl⟩
  idle hn := by simp [left] at hn

/-- A command begins a read, ends one, or leaves it as it is. -/
theorem ReadSound.of_exec {c : Instr} {s t : State} (h : ReadSound s) (hexec : exec c s = .next t) : ReadSound t := by
  have hmemory : t.ext.memory = s.ext.memory := (exec_effect hexec).keeps_own.2.2
  have hmove := exec_loaderMove hexec
  generalize hl : s.loader = l at hmove
  generalize hl' : t.loader = l' at hmove
  cases hmove with
  | keeps => exact h.congr (by rw [hl, hl']) (by rw [hl, hl']) hmemory
  | resets => exact readSound_of_idle (by rw [hl']; rfl) (by rw [hl']; rfl)
  | released => exact readSound_of_begin (by rw [hl']) (by rw [hl'])
  | loads => exact readSound_of_idle (by rw [hl']) (by rw [hl'])
  | refuses => exact readSound_of_idle (by rw [hl']) (by rw [hl'])
  | joins => exact h.congr (by rw [hl, hl']) (by rw [hl, hl']) hmemory
  | restarts => exact readSound_of_begin (by rw [hl']) (by rw [hl']; rfl)

/-- A count of the timers carries the read on by one tick. -/
theorem ReadSound.countDown {s : State} (h : ReadSound s) : ReadSound s.countDown := by
  have hleft : s.countDown.loader.readLeft = tickTimer s.loader.readLeft := by rw [s.countDown_loader, Loader.tick]
  have hshift : s.countDown.loader.shift =
      shiftAfter s.ext.memory (tickTimer s.loader.readLeft) s.loader.shift := by rw [s.countDown_loader, Loader.tick]
  cases hread : s.loader.readLeft with
  | none =>
    rw [hread] at hleft hshift
    exact readSound_of_idle hleft (hshift.trans (h.idle hread))
  | some k =>
    rw [hread] at hleft hshift
    obtain ⟨hbound, hbits⟩ := h.shifted k hread
    rw [tickTimer, Option.map_some] at hleft
    refine ⟨fun n hn => ?_, fun hn => by rw [hleft] at hn; cases hn⟩
    obtain rfl : k - 1 = n := Option.some.inj (hleft.symm.trans hn)
    refine ⟨by omega, hshift.trans ?_⟩
    rw [tickTimer, Option.map_some, hbits, s.countDown_ext]
    cases k with
    | zero => exact shiftAfter_end _ _
    | succ m => exact shiftAfter_samples _ m hbound

/-- Every step keeps the memory read. -/
theorem ReadSound.of_step {s t : State} (h : ReadSound s) (hstep : step s = .next t) : ReadSound t := by
  cases hpending : s.pending with
  | cons c rest =>
    have hexec : exec c (s.withPending rest) = .next t := by simpa [Machine.step, hpending] using hstep
    exact (h.congr rfl rfl rfl : ReadSound (s.withPending rest)).of_exec hexec
  | nil =>
    obtain rfl : s.localTick = t := by simpa [Machine.step, hpending] using hstep
    cases hheld : s.loader.held
    case true => rwa [State.localTick_of_held hheld]
    case false =>
      obtain ⟨l, n, b, ht, -⟩ := State.localTick_footprint hheld
      rw [ht]
      exact h.countDown.congr rfl rfl rfl

/-! ### The obligation -/

/-- Settles O53: every shared operation keeps the conduct; and the read follows the loader's moves and its count. -/
theorem stepsKeepLifeConduct : Obligations.StepsKeepLifeConduct :=
  fun s t hstep => ⟨fun h => kept_lifeConduct.step s t h hstep, fun h => h.of_step hstep⟩

end Sys2Proof.Machine
end

section
/-! PROOF. Every step keeps the channel contexts as R71 lays them out: whatever meets a channel, it leaves a context
that is laid out well. -/

namespace Sys2Proof.Machine

/-! ### One channel -/

/-- A channel context is laid out well, its waiting firing with it (R71, R82). -/
def Channel.WellLaid (k : Channel) : Prop := k.sound ∧ k.waitingNonLevel

/-- A channel at rest is laid out well. -/
theorem Channel.wellLaid_atReset : Channel.atReset.WellLaid := ⟨⟨rfl, rfl, rfl, rfl⟩, nofun⟩

/-- A program of a non-level kind that starts leaves ON. -/
theorem Channel.WellLaid.start {k : Channel} (h : k.waitingNonLevel) {p : Program} (hon : p.kind ≠ .levelOn)
    (hoff : p.kind ≠ .levelOff) (late : Bool) : (k.start p late).WellLaid :=
  ⟨⟨p, rfl, hon, hoff⟩, h⟩

/-- A channel that runs a program, not a LEVEL_OFF, may go to RECOVER, whatever non-level firing waits. -/
theorem Channel.wellLaid_recover {k : Channel} {p : Program} {n : Nat} (hphase : k.phase = .recover n)
    (hrunning : k.running = some p) (hoff : p.kind ≠ .levelOff) (hwaiting : k.waitingNonLevel) : k.WellLaid := by
  refine ⟨?_, hwaiting⟩
  rw [Channel.sound, hphase]
  exact ⟨p, hrunning, hoff⟩

/-- A channel that is not IDLE runs a program that is not a LEVEL_OFF. -/
theorem Channel.WellLaid.runs {k : Channel} (h : k.WellLaid) (hphase : k.phase ≠ .idle) :
    ∃ p, k.running = some p ∧ p.kind ≠ .levelOff := by
  obtain ⟨hsound, -⟩ := h
  unfold Channel.sound at hsound
  cases hp : k.phase <;> rw [hp] at hsound
  case idle => exact absurd hp hphase
  case on =>
    obtain ⟨p, hr, -, hoff⟩ := hsound
    exact ⟨p, hr, hoff⟩
  case off =>
    obtain ⟨p, hr, hkind⟩ := hsound
    exact ⟨p, hr, by rcases hkind with h | h <;> simp [h]⟩
  case recover => exact hsound
  case hold =>
    obtain ⟨p, hr, hkind, -⟩ := hsound
    exact ⟨p, hr, by simp [hkind]⟩

/-- The work of a channel that is not IDLE stops. -/
theorem Channel.WellLaid.stop {k : Channel} (h : k.WellLaid) (hphase : k.phase ≠ .idle) (g : Nat) :
    (k.stop g).WellLaid := by
  obtain ⟨p, hrunning, hoff⟩ := h.runs hphase
  exact Channel.wellLaid_recover rfl hrunning hoff nofun

/-- A channel that is not IDLE enters RECOVER. -/
theorem Channel.WellLaid.enterRecover {k : Channel} (h : k.WellLaid) (hphase : k.phase ≠ .idle) (g : Nat) :
    (k.enterRecover g).WellLaid := by
  obtain ⟨p, hrunning, hoff⟩ := h.runs hphase
  exact Channel.wellLaid_recover rfl hrunning hoff h.2

/-- The work of a channel ends (R79, R88). -/
theorem Channel.WellLaid.endWork {k : Channel} (h : k.WellLaid) (g : Nat) : (k.endWork g).WellLaid := by
  unfold Channel.endWork
  split
  case h_1 => exact h
  case h_2 n hphase =>
    obtain ⟨p, hrunning, hoff⟩ := h.runs (by simp [hphase])
    exact Channel.wellLaid_recover hphase hrunning hoff nofun
  case h_3 n hphase => exact h.stop (by simp [hphase]) g
  case h_4 n hphase => exact h.stop (by simp [hphase]) g
  case h_5 hphase => exact h.stop (by simp [hphase]) g

/-- A non-level firing is placed in the pending slot of a channel in ON, OFF or RECOVER (R82). -/
theorem Channel.WellLaid.place {k : Channel} (h : k.WellLaid) (hidle : k.phase ≠ .idle) (hhold : k.phase ≠ .hold)
    {p : Program} (hon : p.kind ≠ .levelOn) (hoff : p.kind ≠ .levelOff) (late : Bool) :
    (k.place p late).WellLaid := by
  refine ⟨?_, fun w hw => ?_⟩
  · have hsound := h.1
    cases hp : k.phase
    case idle => exact absurd hp hidle
    case hold => exact absurd hp hhold
    all_goals
      simp only [Channel.sound, Channel.place, hp] at hsound ⊢
      exact hsound
  · obtain rfl : (⟨p, late⟩ : Waiting) = w := by simpa [Channel.place] using hw
    exact ⟨hon, hoff⟩

/-- A non-level firing meets a channel (R73, R81 to R83). -/
theorem Channel.WellLaid.takeNonLevel {k : Channel} (h : k.WellLaid) {p : Program} (hon : p.kind ≠ .levelOn)
    (hoff : p.kind ≠ .levelOff) (g : Nat) (late : Bool) : (k.takeNonLevel g p late).WellLaid := by
  unfold Channel.takeNonLevel
  split
  case h_1 => exact Channel.WellLaid.start h.2 hon hoff late
  case h_2 n hphase =>
    split
    · exact ⟨⟨p, rfl, hon, hoff⟩, h.2⟩
    · exact h.place (by simp [hphase]) (by simp [hphase]) hon hoff late
  case h_3 n hphase => exact h.place (by simp [hphase]) (by simp [hphase]) hon hoff late
  case h_4 n hphase => exact h.place (by simp [hphase]) (by simp [hphase]) hon hoff late
  case h_5 hphase =>
    obtain ⟨q, hrunning, hq⟩ := h.runs (by simp [hphase])
    refine Channel.wellLaid_recover rfl hrunning hq fun w hw => ?_
    obtain rfl : (⟨p, late⟩ : Waiting) = w := by simpa using hw
    exact ⟨hon, hoff⟩

/-- Whatever firing a channel takes, it is laid out well after (R80). -/
theorem Channel.WellLaid.takeFiring {k : Channel} (h : k.WellLaid) (g : Nat) (p : Program) (late : Bool) :
    (k.takeFiring g p late).WellLaid := by
  by_cases hon : p.kind = .levelOn
  · rw [Channel.takeFiring, hon]
    exact ⟨⟨p, rfl, hon, rfl, rfl⟩, nofun⟩
  by_cases hoff : p.kind = .levelOff
  · rw [Channel.takeFiring, hoff]
    exact h.endWork g
  rw [Channel.takeFiring_of_nonLevel hon hoff]
  exact h.takeNonLevel hon hoff g late

/-- The end of an ON phase (R74 to R76). -/
theorem Channel.WellLaid.onEnds {k : Channel} (h : k.WellLaid) (hphase : k.phase = .on 0) (g : Nat) :
    (k.onEnds g).WellLaid := by
  have hidle : k.phase ≠ .idle := by simp [hphase]
  unfold Channel.onEnds
  split
  · exact h
  · rename_i p hrunning
    split
    case h_1 => exact h.enterRecover hidle g
    case h_2 => exact h.enterRecover hidle g
    case h_3 hkind =>
      split
      · exact Channel.wellLaid_recover rfl hrunning (by simp [hkind]) h.2
      · exact ⟨⟨p, hrunning, .inl hkind⟩, h.2⟩
    case h_4 hkind => exact ⟨⟨p, hrunning, .inr hkind⟩, h.2⟩
    case h_5 => exact h
    case h_6 => exact h

/-- The end of an OFF phase (R75, R76). -/
theorem Channel.WellLaid.offEnds {k : Channel} (h : k.WellLaid) (hphase : k.phase = .off 0) (g : Nat) :
    (k.offEnds g).WellLaid := by
  have hidle : k.phase ≠ .idle := by simp [hphase]
  unfold Channel.offEnds
  split
  · exact h
  · rename_i p hrunning
    split
    case h_1 hkind =>
      split
      · exact h.enterRecover hidle g
      · exact ⟨⟨p, hrunning, by simp [hkind], by simp [hkind]⟩, h.2⟩
    case h_2 hkind =>
      split
      · exact Channel.wellLaid_recover rfl hrunning (by simp [hkind]) h.2
      · exact ⟨⟨p, hrunning, by simp [hkind], by simp [hkind]⟩, h.2⟩
    all_goals exact h

/-- The end of a RECOVER phase (R77). -/
theorem Channel.WellLaid.recoverEnds {k : Channel} (h : k.WellLaid) : k.recoverEnds.WellLaid := by
  unfold Channel.recoverEnds
  split
  · rename_i w hwaiting
    obtain ⟨hon, hoff⟩ := h.2 w hwaiting
    exact ⟨⟨w.program, rfl, hon, hoff⟩, nofun⟩
  · rename_i hwaiting
    exact ⟨⟨rfl, rfl, hwaiting, rfl⟩, h.2⟩

/-- A tick of the phase timer (R71). -/
theorem Channel.WellLaid.tick {k : Channel} (h : k.WellLaid) : k.tick.WellLaid := by
  obtain ⟨hsound, hwaiting⟩ := h
  refine ⟨?_, by unfold Channel.tick; split <;> exact hwaiting⟩
  cases hp : k.phase
  all_goals
    simp only [Channel.sound, Channel.tick, hp] at hsound ⊢
    exact hsound

/-! ### All channels -/

/-- Every firing keeps the layout of the channel it meets. -/
theorem takesKeep_wellLaid (i : ChannelId) (p : Program) : TakesKeep (fun _ k => k.WellLaid) i p :=
  fun g late _ h => h.takeFiring g p late

/-- The layout of the channels follows the channels. -/
theorem ChannelsSound.congr {s t : State} (h : ChannelsSound s) (channels : t.channels = s.channels) :
    ChannelsSound t := by
  rw [ChannelsSound, channels]
  exact h

/-- The channels of a reset are at rest. -/
theorem channelsSound_reset : ChannelsSound State.reset := by
  intro c
  rw [show State.reset.channels[c] = Channel.atReset from getElem_replicate_fin _ c]
  exact Channel.wellLaid_atReset

/-- A change of one channel that keeps its layout. -/
theorem ChannelsSound.updateChannel {s : State} (h : ChannelsSound s) (c : ChannelId) {f : Channel → Channel}
    (hf : s.channels[c].WellLaid → (f s.channels[c]).WellLaid) : ChannelsSound (s.updateChannel c f) :=
  s.updateChannel_all (Q := fun _ k => k.WellLaid) c f h hf

/-- An offer keeps the layout of the channels. -/
theorem ChannelsSound.offer {s : State} (h : ChannelsSound s) (fs : List Firing) : ChannelsSound (s.offer fs) :=
  s.offer_all (Q := fun _ k => k.WellLaid) fs (fun _ _ => takesKeep_wellLaid _ _) h

/-- The judgment of an edge report keeps the layout of the channels. -/
theorem ChannelsSound.judgeReport {s : State} (h : ChannelsSound s) (sender : StationId) (r : EdgeReport) :
    ChannelsSound (s.judgeReport sender r) :=
  s.judgeReport_all (Q := fun _ k => k.WellLaid) sender r (fun _ _ _ => takesKeep_wellLaid _ _) h

/-- A scope of a CANCEL that acts keeps the layout of the channels. -/
theorem ChannelsSound.cancelScope {s : State} (h : ChannelsSound s) (l : ScopeLeft) :
    ChannelsSound (s.cancelScope l) := by
  obtain ⟨scope, x, set, tag⟩ := l
  cases scope
  case queue => exact h.congr rfl
  case output =>
    intro c
    change (s.cancelOutput set).channels[c].WellLaid
    rw [s.cancelOutput_channel]
    split
    · exact Channel.WellLaid.endWork (h c) _
    · exact h c

/-- An accepted edge keeps the layout of the channels: it reaches them through the bindings alone. -/
theorem ChannelsSound.acceptEdge {s : State} (h : ChannelsSound s) (n : InputId) (rising : Bool) (time : BusTime) :
    ChannelsSound (s.acceptEdge n rising time) := by
  have hcounted : ChannelsSound (s.updateInput n fun i => { i with edgeCount := s.inputs[n].edgeCount + 1 }) :=
    h.congr rfl
  have hjudged := hcounted.judgeReport s.cfg.ownId ⟨n, rising, s.inputs[n].edgeCount + 1, time⟩
  unfold State.acceptEdge
  dsimp only
  generalize State.judgeReport _ _ _ = judged at hjudged ⊢
  obtain ⟨i, l, u, hslot⟩ := judged.updateSlot_footprint n ⟨time, rising, s.inputs[n].edgeCount + 1, false⟩
  rw [hslot]
  exact hjudged.congr rfl

/-- A sample of an input keeps the layout of the channels. -/
theorem ChannelsSound.takeSample {s : State} (h : ChannelsSound s) (n : InputId) (level : Bool) :
    ChannelsSound (s.takeSample n level) := by
  have hsampled : ChannelsSound ((s.seeLevel n level).updateInput n
      (Input.afterSample level s.cfg.inputs[n].period (s.filtered n level))) := h.congr rfl
  unfold State.takeSample
  dsimp only
  split
  · split
    · exact hsampled.acceptEdge n level _
    · exact hsampled
  all_goals exact hsampled

/-- Every shared operation keeps the layout of the channels. -/
theorem kept_channelsSound : Kept ChannelsSound where
  pending _ _ h := h.congr rfl
  choice _ _ h := h.congr rfl
  hardReset _ _ := channelsSound_reset.congr rfl
  restart _ _ _ := channelsSound_reset.congr rfl
  startRead _ h _ := h.congr rfl
  readBad _ _ h _ _ _ := h.congr rfl
  readGood s b h _ _ _ := h.congr (State.endRead_enterJoining_channels b s)
  enterRunning s levels h _ _ := by
    unfold State.enterRunning
    dsimp only
    split
    · exact h.congr rfl
    · obtain ⟨l, hb⟩ := State.startBeacon_footprint (State.firstSamples levels ((s.withLoader
        { s.loader with life := .running, joinLeft := none }).withTimebase { s.timebase with sync := .synced }))
      rw [hb]
      exact h.congr rfl
  carrierJoins _ h _ := h.congr rfl
  carrierBegins _ h _ _ := h.congr rfl
  delimiter _ _ h _ := h.congr rfl
  fragment _ h _ := h.congr rfl
  mismatch _ _ h _ := h.congr rfl
  fixOrder _ h _ := h.congr rfl
  nextRound _ h _ := h.congr rfl
  slotStarts s h := by
    obtain ⟨x, e, r, i, hs⟩ := s.slotStarts_footprint
    rw [hs]
    exact h.congr rfl
  complete s _ h _ _ _ := by
    obtain ⟨i, l, a, u, hc⟩ := s.frameEnd.headCompletes_footprint
    rw [State.completeEnd, hc]
    exact h.congr rfl
  aborted s _ h _ _ := by
    obtain ⟨i, l, a, u, ha⟩ := s.frameEnd.headAborts_footprint
    rw [State.abortedEnd, ha]
    exact h.congr rfl
  quietLine _ h _ := h.congr rfl
  badEnd _ h _ := h.congr rfl
  frameEnd _ h _ := h.congr rfl
  clashEnd s h _ := by
    unfold State.clashEnd
    split <;> exact h.congr rfl
  stages s f a h _ _ _ _ := by
    have hlead : ChannelsSound (s.takeLead (s.frameLead f a)) :=
      s.takeLead_all (Q := fun _ k => k.WellLaid) _ (fun _ _ => takesKeep_wellLaid _ _) h
    exact hlead.congr rfl
  beacon s f h _ _ _ := by
    unfold State.takeBeacon
    split <;> exact h.congr rfl
  edge s f h _ := by
    unfold State.takeEdgeReport
    split
    · exact h
    · exact h.judgeReport _ _
  schedule s f h _ := by
    unfold State.takeSchedule
    split
    · exact h.congr rfl
    split
    · exact h.congr rfl
    split
    · exact h.congr rfl
    split
    · exact h.congr rfl
    · exact h.offer _
  stage s f h _ := by
    obtain ⟨g, u, hs⟩ := s.takeStage_footprint f
    rw [hs]
    exact h.congr rfl
  release s f h _ := by
    unfold State.takeRelease
    split
    · exact h.congr rfl
    split
    · exact h
    · exact ChannelsSound.offer (h.congr rfl : ChannelsSound (s.emptySlots _)) _
  scopeLeft _ _ h := h.congr rfl
  cancelScope _ l h := h.cancelScope l
  cancelStaged _ _ _ _ h _ := h.congr rfl
  rejectCancel _ h _ := h.congr rfl
  probe s f h _ := by
    obtain ⟨p, u, l, hp⟩ := s.takeProbe_footprint f
    rw [hp]
    exact h.congr rfl
  clear s f h _ := by
    obtain ⟨l, b, u, hc⟩ := s.takeClear_footprint f
    rw [hc]
    exact h.congr rfl
  sample _ n level h _ := h.takeSample n level
  busTick s h _ := s.busTick_all (Q := fun _ k => k.WellLaid) (fun _ _ => takesKeep_wellLaid _ _) h
  onEnds s c h hphase := h.updateChannel c fun hc => hc.onEnds hphase _
  offEnds s c h hphase := h.updateChannel c fun hc => hc.offEnds hphase _
  recoverEnds s c h _ := h.updateChannel c fun hc => hc.recoverEnds
  beaconTimer s h _ := by
    obtain ⟨l, hb⟩ := s.startBeacon_footprint
    rw [hb]
    exact h.congr rfl
  announcedTimer _ h _ := h.congr rfl
  silence _ _ h _ := h.congr rfl
  candidate _ _ h _ := h.congr rfl
  lapse _ _ _ h _ := h.congr rfl
  countDown s h _ c := by
    rw [s.countDown_channel]
    exact Channel.WellLaid.tick (h c)
  advance _ h _ := h.congr rfl

/-! ### The obligation -/

/-- Settles O56: every shared operation keeps the layout of the channels. -/
theorem stepsKeepTheChannels : Obligations.StepsKeepTheChannels :=
  fun s t h hstep => kept_channelsSound.step s t h hstep

end Sys2Proof.Machine
end

section
/-! PROOF. Every step keeps the cue queue: its capacity, the order and the span of its fire times, and its message keys
(R38 to R40). -/

namespace Sys2Proof.Machine

/-! ### What is removed from a sound queue leaves it sound -/

/-- The queue and bus time as they were. -/
theorem QueueSound.congr {s t : State} (h : QueueSound s) (queue : t.queue = s.queue)
    (time : t.timebase.busTime = s.timebase.busTime) : QueueSound t where
  capacity := by rw [queue]; exact h.capacity
  span := by rw [queue, time]; exact h.span
  ordered := by rw [queue]; exact h.ordered
  keysDistinct := by rw [queue]; exact h.keysDistinct

/-- An empty queue is sound at every time. -/
theorem queueSound_of_empty {s : State} (h : s.queue = []) : QueueSound s := by
  constructor
  all_goals simp [h]

/-- Entries leave the queue, and those that stay are still ahead of bus time. -/
theorem QueueSound.of_filter {s t : State} (h : QueueSound s) (stays : CueEntry → Bool)
    (queue : t.queue = s.queue.filter stays)
    (span : ∀ e ∈ s.queue, stays e = true → 0 < signedDiff e.fireTime t.timebase.busTime ∧
      signedDiff e.fireTime t.timebase.busTime ≤ 2 ^ 31) : QueueSound t where
  capacity := by
    rw [queue]
    exact (List.length_filter_le _ _).trans h.capacity
  span e he := by
    rw [queue, List.mem_filter] at he
    exact span e he.1 he.2
  ordered := by rw [queue]; exact h.ordered.filter _
  keysDistinct := by rw [queue]; exact h.keysDistinct.filter _

/-- Entries leave the queue at the same bus time. -/
theorem QueueSound.removing {s t : State} (h : QueueSound s) (stays : CueEntry → Bool)
    (queue : t.queue = s.queue.filter stays) (time : t.timebase.busTime = s.timebase.busTime := by rfl) :
    QueueSound t :=
  h.of_filter stays queue fun e he _ => by rw [time]; exact h.span e he

/-! ### Time moves on -/

/-- An entry within the horizon that a lead does not reach is within the horizon after it. -/
theorem span_after_lead {f b : BusTime} {lead : Int} (hlow : 0 < lead) (hhigh : lead < 2 ^ 39)
    (hspan : 0 < signedDiff f b ∧ signedDiff f b ≤ 2 ^ 31) (hahead : 0 < signedDiff f (advance b lead)) :
    0 < signedDiff f (advance b lead) ∧ signedDiff f (advance b lead) ≤ 2 ^ 31 := by
  have hdiff : signedDiff f (advance b lead) = signedDiff f b - lead :=
    signedDiff_advance f b lead (by omega) (by omega)
  omega

/-- A step of bus time keeps the queue: what it reaches leaves (R56). -/
theorem QueueSound.stepTime {s : State} (h : QueueSound s) {lead : Int} (hlow : 0 < lead) (hhigh : lead < 2 ^ 39) :
    QueueSound (s.stepTime lead) := by
  obtain ⟨v, u, hstep⟩ := State.stepNotice_footprint s.timebase.busTime (advance s.timebase.busTime lead)
    (s.withTimebase { s.timebase with busTime := advance s.timebase.busTime lead })
  rw [State.stepTime, hstep]
  refine h.of_filter (fun e => !reachedBy s.timebase.busTime (advance s.timebase.busTime lead) e) rfl
    fun e he hstays => ?_
  have hspan := h.span e he
  have hahead : later e.fireTime (advance s.timebase.busTime lead) = true := by
    simpa [reachedBy, later, hspan.1] using hstays
  exact span_after_lead hlow hhigh hspan (by simpa [later] using hahead)

/-- Whatever the timebase does with a lead, it keeps the queue. -/
theorem QueueSound.takeLead {s : State} (h : QueueSound s) {lead : Int} (hhigh : lead < 2 ^ 39) :
    QueueSound (s.takeLead lead) := by
  unfold State.takeLead
  split
  · split
    · exact h.stepTime (by assumption) hhigh
    · exact h
  split
  · exact h
  rename_i hslack
  split
  · exact QueueSound.stepTime (h.congr (by rfl) (by rfl) : QueueSound (s.withTimebase _)) (by omega) hhigh
  unfold State.farLead
  split
  · exact h.congr rfl rfl
  split
  · exact queueSound_of_empty rfl
  · exact h.congr rfl rfl

/-- The fire time one tick ahead is the next bus time. -/
theorem fireTime_eq_succ {f b : BusTime} (h : signedDiff f b = 1) : f = b + 1 :=
  signedDiff_inj f (b + 1) b (by rw [h, signedDiff_succ])

/-- A tick of bus time keeps the queue when what falls due leaves (R53). -/
theorem QueueSound.tick {s t : State} (h : QueueSound s)
    (queue : t.queue = s.queue.filter fun e => !decide (e.fireTime = s.timebase.busTime + 1))
    (time : t.timebase.busTime = s.timebase.busTime + 1) : QueueSound t := by
  refine h.of_filter _ queue fun e he hstays => ?_
  have hspan := h.span e he
  have hnot : signedDiff e.fireTime s.timebase.busTime ≠ 1 := fun hone => by
    simp [fireTime_eq_succ hone] at hstays
  have hdiff : signedDiff e.fireTime (advance s.timebase.busTime 1) =
      signedDiff e.fireTime s.timebase.busTime - 1 := signedDiff_advance _ _ 1 (by omega) (by omega)
  rw [time, tick_eq_advance, hdiff]
  omega

/-! ### Offers -/

/-- Two entries differ in their message keys, if they have any (R39). -/
def KeysDiffer (a b : CueEntry) : Prop := a.content.key.isSome = true → a.content.key ≠ b.content.key

/-- The firings of an offer are for different channels. -/
def ForDifferentChannels (fs : List Firing) : Prop :=
  fs.Pairwise fun a b => a.content.channel ≠ b.content.channel

/-- A message key tells its channel (R39). -/
theorem channel_of_key {a b : CueContent} (h : a.key = b.key) (hsome : a.key.isSome = true) :
    a.channel = b.channel := by
  unfold CueContent.key at h hsome
  cases ha : a.origin <;> cases hb : b.origin <;> simp only [ha, hb] at h hsome
  case message.message =>
    split at h
    · rename_i hzero
      simp [hzero] at hsome
    · split at h
      · cases h
      · simp only [Option.some.injEq, Prod.mk.injEq] at h
        exact h.2.2
  case message.binding =>
    rw [h] at hsome
    cases hsome
  all_goals cases hsome

/-- Entries for different channels differ in their keys. -/
theorem keysDiffer_of_channels {a b : CueEntry} (h : a.content.channel ≠ b.content.channel) : KeysDiffer a b :=
  fun hsome heq => h (channel_of_key heq hsome)

/-- An entry that an offer does not replace differs in its key from each of the offer's. -/
theorem keysDiffer_of_not_replaced {fs : List Firing} {e : CueEntry} (h : replacedBy fs e = false) {f : Firing}
    (hf : f ∈ fs) : KeysDiffer e f.toEntry ∧ KeysDiffer f.toEntry e := by
  have hne : e.content.key.isSome = true → f.content.key ≠ e.content.key := by
    intro hsome heq
    have hreplaced : replacedBy fs e = true := by
      simp only [replacedBy, hsome, Bool.true_and, List.any_eq_true, decide_eq_true_eq]
      exact ⟨f, hf, heq⟩
    simp [hreplaced] at h
  refine ⟨fun hsome heq => hne hsome heq.symm, fun hsome heq => hne ?_ heq⟩
  have heq' : f.content.key = e.content.key := heq
  rw [← heq']
  exact hsome

/-- Insertions of firings for different channels keep the keys distinct. -/
theorem insertAll_keysDistinct (fs : List Firing) (q : List CueEntry) (hq : q.Pairwise KeysDiffer)
    (hfs : ForDifferentChannels fs)
    (hnew : ∀ f ∈ fs, ∀ e ∈ q, KeysDiffer e f.toEntry ∧ KeysDiffer f.toEntry e) :
    (insertAll fs q).Pairwise KeysDiffer := by
  induction fs generalizing q with
  | nil => exact hq
  | cons f rest ih =>
    obtain ⟨hfirst, hrest⟩ := List.pairwise_cons.mp hfs
    have hinserted : (insertEntry f.toEntry q).Pairwise KeysDiffer :=
      insertEntry_pairwise_symm f.toEntry q hq (fun e he => (hnew f (by simp) e he).1)
        fun e he => (hnew f (by simp) e he).2
    refine ih _ hinserted hrest fun g hg e he => ?_
    rcases (mem_insertEntry _ _ _).mp he with rfl | he
    · exact ⟨keysDiffer_of_channels (hfirst g hg), keysDiffer_of_channels (hfirst g hg).symm⟩
    · exact hnew g (by simp [hg]) e he

/-- An entry lies one tick to the horizon ahead of a bus time. -/
def AheadOf (b : BusTime) (e : CueEntry) : Prop := 0 < signedDiff e.fireTime b ∧ signedDiff e.fireTime b ≤ 2 ^ 31

/-- Of two entries ahead of bus time the later one has the greater difference from it. -/
theorem later_iff_of_ahead {b : BusTime} {x y : CueEntry} (hx : AheadOf b x) (hy : AheadOf b y) :
    later x.fireTime y.fireTime = true ↔ signedDiff y.fireTime b < signedDiff x.fireTime b := by
  obtain ⟨hx₁, hx₂⟩ := hx
  obtain ⟨hy₁, hy₂⟩ := hy
  rw [later, decide_eq_true_eq, later_iff_of_range x.fireTime y.fireTime b (by omega) (by omega)]
  omega

/-- An insertion ahead of bus time keeps the order. -/
theorem insertEntry_ordered {b : BusTime} (e : CueEntry) (q : List CueEntry) (he : AheadOf b e)
    (hahead : ∀ x ∈ q, AheadOf b x) (hq : q.Pairwise fun x y => later x.fireTime y.fireTime = false) :
    (insertEntry e q).Pairwise fun x y => later x.fireTime y.fireTime = false := by
  refine insertEntry_pairwise e q hq (fun x _ h => h) fun x hx y hy hlater horder => ?_
  have hxe := (later_iff_of_ahead (hahead x hx) he).mp hlater
  have hxy : signedDiff x.fireTime b ≤ signedDiff y.fireTime b := by
    rcases horder with rfl | hxy
    · exact le_rfl
    · exact not_lt.mp fun hlt => by simp [(later_iff_of_ahead (hahead x hx) (hahead y hy)).mpr hlt] at hxy
  exact Bool.eq_false_iff.mpr fun hey => by
    have := (later_iff_of_ahead he (hahead y hy)).mp hey
    omega

/-- Insertions ahead of bus time keep the order. -/
theorem insertAll_ordered {b : BusTime} (fs : List Firing) (q : List CueEntry)
    (hfs : ∀ f ∈ fs, AheadOf b f.toEntry) (hahead : ∀ x ∈ q, AheadOf b x)
    (hq : q.Pairwise fun x y => later x.fireTime y.fireTime = false) :
    (insertAll fs q).Pairwise fun x y => later x.fireTime y.fireTime = false := by
  induction fs generalizing q with
  | nil => exact hq
  | cons f rest ih =>
    have hf := hfs f (by simp)
    refine ih _ (fun g hg => hfs g (by simp [hg])) (fun x hx => ?_) (insertEntry_ordered _ q hf hahead hq)
    rcases (mem_insertEntry _ _ _).mp hx with rfl | hx
    · exact hf
    · exact hahead x hx

/-- An offer leaves bus time. -/
theorem State.offer_busTime (fs : List Firing) (s : State) :
    (s.offer fs).timebase.busTime = s.timebase.busTime := by
  obtain ⟨q, v, u, h⟩ := s.offer_footprint fs
  rw [h]
  rfl

/-- The queue decides an offer for different channels and is sound after (R38 to R52). -/
theorem QueueSound.offer {s : State} (h : QueueSound s) {fs : List Firing} (hfs : ForDifferentChannels fs) :
    QueueSound (s.offer fs) := by
  rcases s.offer_queue fs with hsame | ⟨-, hfits, hqueue⟩
  · exact h.congr hsame (s.offer_busTime fs)
  have hfuture : ∀ f ∈ s.futures fs, AheadOf s.timebase.busTime f.toEntry := by
    intro f hf
    obtain ⟨-, hclass⟩ := List.mem_filter.mp hf
    exact s.future_range f.fireTime (of_decide_eq_true hclass)
  have hkept : ∀ e ∈ s.queue.filter fun e => !replacedBy fs e, AheadOf s.timebase.busTime e :=
    fun e he => h.span e (List.mem_filter.mp he).1
  constructor
  · rw [hqueue, insertAll_length]
    simpa [State.offerOverflows] using hfits
  · rw [hqueue, s.offer_busTime]
    intro e he
    rcases (mem_insertAll _ _ _).mp he with ⟨f, hf, rfl⟩ | he
    · exact hfuture f hf
    · exact hkept e he
  · rw [hqueue]
    exact insertAll_ordered _ _ hfuture hkept (h.ordered.filter _)
  · rw [hqueue]
    refine insertAll_keysDistinct _ _ (h.keysDistinct.filter _) (hfs.filter _) fun f hf e he => ?_
    exact keysDiffer_of_not_replaced (by simpa using (List.mem_filter.mp he).2) (List.mem_filter.mp hf).1

/-! ### The offers of the station -/

/-- An increasing run of indexes has no two alike. -/
theorem finRange_pairwise_ne (n : Nat) : (List.finRange n).Pairwise (· ≠ ·) :=
  List.nodup_iff_pairwise_ne.mp (List.nodup_finRange n)

/-- A SCHEDULE offers one firing for each channel of its set (R49). -/
theorem scheduleFirings_channels (f : Frame) (p : Program) : ForDifferentChannels (scheduleFirings f p) :=
  List.pairwise_map.mpr ((finRange_pairwise_ne 8).filter _)

/-- What a RELEASE collects from a channel's slot is for that channel (R105). -/
theorem channel_of_collected {tag : Byte} {stamp : BusTime} {s : State} {c : ChannelId} {x : Firing}
    (h : (if carriesTag tag s.staging[c] then s.staging[c].map (releaseFiring stamp c) else none) = some x) :
    x.content.channel = c := by
  split at h
  · obtain ⟨g, -, rfl⟩ := Option.map_eq_some_iff.mp h
    rfl
  · cases h

/-- A RELEASE offers one firing for each channel whose slot it empties (R105). -/
theorem collected_channels (tag : Byte) (stamp : BusTime) (s : State) :
    ForDifferentChannels (s.collected tag stamp) := by
  refine List.Pairwise.filterMap _ (fun c d hne x hx y hy heq => hne ?_) (finRange_pairwise_ne 8)
  rw [← channel_of_collected hx, ← channel_of_collected hy, heq]

/-- A binding offers one firing (R134). -/
theorem bindingFiring_channels (i : BindingId) (c : BindingContent) (r : EdgeReport) :
    ForDifferentChannels [bindingFiring i c r] := List.pairwise_singleton _ _

/-- The judgment of an edge report keeps the queue. -/
theorem QueueSound.judgeReport {s : State} (h : QueueSound s) (sender : StationId) (r : EdgeReport) :
    QueueSound (s.judgeReport sender r) := by
  unfold State.judgeReport
  generalize List.finRange 16 = is
  induction is generalizing s with
  | nil => exact h
  | cons i rest ih =>
    refine ih ?_
    unfold State.judgeEntry
    split
    · exact h
    split
    · split
      · exact h.offer (bindingFiring_channels _ _ _)
      · exact h
    · exact h.congr rfl rfl

/-- An accepted edge keeps the queue: it reaches it through the bindings alone. -/
theorem QueueSound.acceptEdge {s : State} (h : QueueSound s) (n : InputId) (rising : Bool) (time : BusTime) :
    QueueSound (s.acceptEdge n rising time) := by
  have hcounted : QueueSound (s.updateInput n fun i => { i with edgeCount := s.inputs[n].edgeCount + 1 }) := h.congr rfl rfl
  have hjudged := hcounted.judgeReport s.cfg.ownId ⟨n, rising, s.inputs[n].edgeCount + 1, time⟩
  unfold State.acceptEdge
  dsimp only
  generalize State.judgeReport _ _ _ = judged at hjudged ⊢
  obtain ⟨i, l, u, hslot⟩ := judged.updateSlot_footprint n ⟨time, rising, s.inputs[n].edgeCount + 1, false⟩
  rw [hslot]
  exact hjudged.congr rfl rfl

/-- A sample of an input keeps the queue. -/
theorem QueueSound.takeSample {s : State} (h : QueueSound s) (n : InputId) (level : Bool) :
    QueueSound (s.takeSample n level) := by
  have hsampled : QueueSound ((s.seeLevel n level).updateInput n
      (Input.afterSample level s.cfg.inputs[n].period (s.filtered n level))) := h.congr rfl rfl
  unfold State.takeSample
  dsimp only
  split
  · split
    · exact hsampled.acceptEdge n level _
    · exact hsampled
  all_goals exact hsampled

/-- A SCHEDULE keeps the queue. -/
theorem QueueSound.takeSchedule {s : State} (h : QueueSound s) (f : Frame) : QueueSound (s.takeSchedule f) := by
  unfold State.takeSchedule
  split
  · exact h.congr rfl rfl
  split
  · exact h.congr rfl rfl
  split
  · exact h.congr rfl rfl
  split
  · exact h.congr rfl rfl
  · exact h.offer (scheduleFirings_channels f _)

/-- A RELEASE keeps the queue. -/
theorem QueueSound.takeRelease {s : State} (h : QueueSound s) (f : Frame) : QueueSound (s.takeRelease f) := by
  unfold State.takeRelease
  split
  · exact h.congr rfl rfl
  split
  · exact h
  · rename_i first rest hcollected
    have hemptied : QueueSound (s.emptySlots (byteAt f.payload 0)) := h.congr rfl rfl
    exact hemptied.offer (hcollected ▸ collected_channels _ _ s)

/-- A scope of a CANCEL that acts keeps the queue. -/
theorem QueueSound.cancelScope {s : State} (h : QueueSound s) (l : ScopeLeft) : QueueSound (s.cancelScope l) := by
  obtain ⟨scope, x, set, tag⟩ := l
  cases scope
  case queue => exact h.removing (fun e => !cancelsEntry x set tag e) rfl
  case output => exact h.congr rfl rfl

/-! ### Every operation keeps the queue -/

/-- Every shared operation keeps the cue queue. -/
theorem kept_queueSound : Kept QueueSound where
  pending _ _ h := h.congr rfl rfl
  choice _ _ h := h.congr rfl rfl
  hardReset _ _ := queueSound_of_empty rfl
  restart _ _ _ := queueSound_of_empty rfl
  startRead _ h _ := h.congr rfl rfl
  readBad _ _ h _ _ _ := h.congr rfl rfl
  readGood s b h _ _ _ := by
    exact h.congr (State.endRead_enterJoining_queue b s) (by rw [State.endRead_enterJoining_timebase])
  enterRunning s levels h _ _ := by
    unfold State.enterRunning
    dsimp only
    split
    · exact h.congr rfl rfl
    · obtain ⟨l, hb⟩ := State.startBeacon_footprint (State.firstSamples levels ((s.withLoader
        { s.loader with life := .running, joinLeft := none }).withTimebase { s.timebase with sync := .synced }))
      rw [hb]
      exact h.congr rfl rfl
  carrierJoins _ h _ := h.congr rfl rfl
  carrierBegins _ h _ _ := h.congr rfl rfl
  delimiter _ _ h _ := h.congr rfl rfl
  fragment _ h _ := h.congr rfl rfl
  mismatch _ _ h _ := h.congr rfl rfl
  fixOrder _ h _ := h.congr rfl rfl
  nextRound _ h _ := h.congr rfl rfl
  slotStarts s h := by
    obtain ⟨x, e, r, i, hs⟩ := s.slotStarts_footprint
    rw [hs]
    exact h.congr rfl rfl
  complete s _ h _ _ _ := by
    obtain ⟨i, l, a, u, hc⟩ := s.frameEnd.headCompletes_footprint
    rw [State.completeEnd, hc]
    exact h.congr rfl rfl
  aborted s _ h _ _ := by
    obtain ⟨i, l, a, u, ha⟩ := s.frameEnd.headAborts_footprint
    rw [State.abortedEnd, ha]
    exact h.congr rfl rfl
  quietLine _ h _ := h.congr rfl rfl
  badEnd _ h _ := h.congr rfl rfl
  frameEnd _ h _ := h.congr rfl rfl
  clashEnd s h _ := by
    unfold State.clashEnd
    split <;> exact h.congr rfl rfl
  stages s f a h _ _ _ _ := by
    have hlead : QueueSound (s.takeLead (s.frameLead f a)) := h.takeLead (leadOf_range _ _ _).2
    exact hlead.congr rfl rfl
  beacon s f h _ _ _ := by
    unfold State.takeBeacon
    split <;> exact h.congr rfl rfl
  edge s f h _ := by
    unfold State.takeEdgeReport
    split
    · exact h
    · exact h.judgeReport _ _
  schedule _ f h _ := h.takeSchedule f
  stage s f h _ := by
    obtain ⟨g, u, hs⟩ := s.takeStage_footprint f
    rw [hs]
    exact h.congr rfl rfl
  release _ f h _ := h.takeRelease f
  scopeLeft _ _ h := h.congr rfl rfl
  cancelScope _ l h := h.cancelScope l
  cancelStaged _ _ _ _ h _ := h.congr rfl rfl
  rejectCancel _ h _ := h.congr rfl rfl
  probe s f h _ := by
    obtain ⟨p, u, l, hp⟩ := s.takeProbe_footprint f
    rw [hp]
    exact h.congr rfl rfl
  clear s f h _ := by
    obtain ⟨l, b, u, hc⟩ := s.takeClear_footprint f
    rw [hc]
    exact h.congr rfl rfl
  sample _ n level h _ := h.takeSample n level
  busTick s h _ := by
    obtain ⟨v, u, hb⟩ := s.busTick_footprint
    rw [hb]
    exact h.tick rfl rfl
  onEnds _ _ h _ := h.congr rfl rfl
  offEnds _ _ h _ := h.congr rfl rfl
  recoverEnds _ _ h _ := h.congr rfl rfl
  beaconTimer s h _ := by
    obtain ⟨l, hb⟩ := s.startBeacon_footprint
    rw [hb]
    exact h.congr rfl rfl
  announcedTimer _ h _ := h.congr rfl rfl
  silence _ _ h _ := h.congr rfl rfl
  candidate _ _ h _ := h.congr rfl rfl
  lapse _ _ _ h _ := h.congr rfl rfl
  countDown s h _ := h.congr s.countDown_queue (by simp)
  advance s h hdue := by
    refine h.tick (List.filter_eq_self.mpr fun e he => ?_).symm rfl
    simpa using List.any_eq_false.mp hdue e he

/-! ### The obligation -/

/-- Settles O54: entries that leave keep the rest sound, time that moves takes out what it reaches, and an offer
inserts in order what no stored key contradicts. -/
theorem stepsKeepTheQueue : Obligations.StepsKeepTheQueue :=
  fun s t h hstep => kept_queueSound.step s t h hstep

end Sys2Proof.Machine
end

section
/-! PROOF. Every step keeps the staging slots (R100, R106) and keeps disabled channels at rest (R47, R70, R102,
R128). -/

namespace Sys2Proof.Machine

/-! ### The staging slots -/

/-- Slots empty at most, at a station of the same life state and the same staging lifetime. -/
theorem StagingSound.of_filled {s t : State} (h : StagingSound s)
    (filled : ∀ (c : ChannelId) (g : Staged), t.staging[c] = some g → s.staging[c] = some g)
    (life : t.loader.life = s.loader.life) (cfg : t.cfg = s.cfg) : StagingSound t := by
  intro c g hg
  rw [life, cfg]
  exact h c g (filled c g hg)

/-- The slots, the state of life and the configuration as they were. -/
theorem StagingSound.congr {s t : State} (h : StagingSound s) (staging : t.staging = s.staging)
    (life : t.loader.life = s.loader.life) (cfg : t.cfg = s.cfg) : StagingSound t :=
  h.of_filled (fun c g hg => by rw [← staging]; exact hg) life cfg

/-- No slot is filled. -/
theorem stagingSound_of_empty {s : State} (h : ∀ c : ChannelId, s.staging[c] = none) : StagingSound s :=
  fun c g hg => by simp [h c] at hg

/-- Outside RUNNING no slot is filled. -/
theorem StagingSound.empty {s : State} (h : StagingSound s) (hlife : s.loader.life ≠ .running) (c : ChannelId) :
    s.staging[c] = none := by
  cases hg : s.staging[c]
  case none => rfl
  case some g => exact absurd (h c g hg).1 hlife

/-- Slots that change while the station is not RUNNING are none. -/
theorem StagingSound.of_not_running {s t : State} (h : StagingSound s) (hlife : s.loader.life ≠ .running)
    (staging : t.staging = s.staging) : StagingSound t :=
  stagingSound_of_empty fun c => by rw [staging]; exact h.empty hlife c

/-- What a slot holds after a STAGE: its firing on the channels of the set, what it held on the others (R103). -/
theorem State.fillSlots_staged (f : Frame) (p : Program) (s : State) (c : ChannelId) :
    (s.fillSlots f p).staging[c] = if (byteAt f.payload 0).getLsbD c.val then
      some ⟨f.sender, byteAt f.payload 1, field32 f.payload 2, p, s.cfg.stagingLifetime⟩ else s.staging[c] :=
  mapFamily_getElem _ _ c

/-- What a slot holds after a RELEASE: nothing when it carried the tag (R105). -/
theorem State.emptySlots_staged (tag : Byte) (s : State) (c : ChannelId) :
    (s.emptySlots tag).staging[c] = if carriesTag tag s.staging[c] then none else s.staging[c] :=
  mapFamily_getElem _ _ c

/-- What a slot holds after a CANCEL in staged scope (R108). -/
theorem State.cancelStaged_staged (x : StationId) (set tag : Byte) (s : State) (c : ChannelId) :
    (s.cancelStaged x set tag).staging[c] = if set.getLsbD c.val then
      s.staging[c].filter (fun g => !cancelsStaged x tag g) else s.staging[c] :=
  mapFamily_getElem _ _ c

/-- A slot that a RELEASE leaves filled was filled so before. -/
theorem State.filled_of_emptySlots {tag : Byte} {s : State} {c : ChannelId} {g : Staged}
    (h : (s.emptySlots tag).staging[c] = some g) : s.staging[c] = some g := by
  rw [s.emptySlots_staged] at h
  split at h
  · cases h
  · exact h

/-- A slot that a CANCEL leaves filled was filled so before. -/
theorem State.filled_of_cancelStaged {x : StationId} {set tag : Byte} {s : State} {c : ChannelId} {g : Staged}
    (h : (s.cancelStaged x set tag).staging[c] = some g) : s.staging[c] = some g := by
  rw [s.cancelStaged_staged] at h
  split at h
  · exact (Option.filter_eq_some_iff.mp h).1
  · exact h

/-- A slot that is filled after another has been emptied was filled so before. -/
theorem filled_of_set_none {v : Vector (Option Staged) 8} {c d : ChannelId} {g : Staged}
    (h : (v.set c none)[d] = some g) : v[d] = some g := by
  by_cases hcd : (c : Nat) = d
  · simp [hcd] at h
  · simpa [Vector.getElem_set, hcd] using h

/-- A STAGE that passes its checks names enabled channels, a nonzero tag and an offset within the horizon (R102). -/
theorem State.judgeStage_ok {p : List Byte} {program : Program} {s : State} (h : s.judgeStage p = .ok program) :
    s.namesDisabled (byteAt p 0) = false ∧ byteAt p 1 ≠ 0 ∧ (field32 p 2).toNat ≤ 2 ^ 31 := by
  unfold State.judgeStage at h
  split at h
  · cases h
  split at h
  · cases h
  split at h
  · cases h
  split at h
  · cases h
  rename_i hnames _ _ _ htag hoffset
  exact ⟨Bool.eq_false_of_not_eq_true hnames, htag, not_lt.mp hoffset⟩

/-- What the judgment of a STAGE gives is a rejection, or it fills the slots of a sound firing (R102, R103). -/
theorem State.takeStage_cases (f : Frame) (s : State) :
    (∃ r, s.takeStage f = s.reject r) ∨ ∃ p, s.judgeStage f.payload = .ok p ∧ s.takeStage f = s.fillSlots f p := by
  unfold State.takeStage
  split
  · exact .inl ⟨_, rfl⟩
  split
  · exact .inl ⟨_, rfl⟩
  · rename_i p hp
    exact .inr ⟨p, hp, rfl⟩

/-- A STAGE keeps the staging slots. -/
theorem StagingSound.takeStage {s : State} (h : StagingSound s) (f : Frame) (hrunning : s.loader.life = .running) :
    StagingSound (s.takeStage f) := by
  rcases s.takeStage_cases f with ⟨r, hr⟩ | ⟨p, hp, ht⟩
  · rw [hr]
    exact h.congr rfl rfl rfl
  · obtain ⟨-, htag, hoffset⟩ := State.judgeStage_ok hp
    rw [ht]
    intro c g hg
    rw [s.fillSlots_staged] at hg
    split at hg
    · cases hg
      exact ⟨hrunning, htag, hoffset, le_rfl⟩
    · exact h c g hg

/-- Every shared operation keeps the staging slots. -/
theorem kept_stagingSound : Kept StagingSound where
  pending _ _ h := h.congr rfl rfl rfl
  choice _ _ h := h.congr rfl rfl rfl
  hardReset _ _ := stagingSound_of_empty (getElem_replicate_fin none)
  restart _ _ _ := stagingSound_of_empty (getElem_replicate_fin none)
  startRead _ h _ := h.congr rfl rfl rfl
  readBad _ _ h hlife _ _ := h.of_not_running (by simp [hlife]) rfl
  readGood s b h hlife _ _ := by
    exact h.of_not_running (by simp [hlife]) (State.endRead_enterJoining_staging b s)
  enterRunning s levels h hlife _ := by
    unfold State.enterRunning
    dsimp only
    split
    · exact h.of_not_running (by simp [hlife]) rfl
    · obtain ⟨l, hb⟩ := State.startBeacon_footprint (State.firstSamples levels ((s.withLoader
        { s.loader with life := .running, joinLeft := none }).withTimebase { s.timebase with sync := .synced }))
      rw [hb]
      exact h.of_not_running (by simp [hlife]) rfl
  carrierJoins _ h _ := h.congr rfl rfl rfl
  carrierBegins _ h _ _ := h.congr rfl rfl rfl
  delimiter _ _ h _ := h.congr rfl rfl rfl
  fragment _ h _ := h.congr rfl rfl rfl
  mismatch _ _ h _ := h.congr rfl rfl rfl
  fixOrder _ h _ := h.congr rfl rfl rfl
  nextRound _ h _ := h.congr rfl rfl rfl
  slotStarts s h := by
    obtain ⟨x, e, r, i, hs⟩ := s.slotStarts_footprint
    rw [hs]
    exact h.congr rfl rfl rfl
  complete s _ h _ _ _ := by
    obtain ⟨i, l, a, u, hc⟩ := s.frameEnd.headCompletes_footprint
    rw [State.completeEnd, hc]
    exact h.congr rfl rfl rfl
  aborted s _ h _ _ := by
    obtain ⟨i, l, a, u, ha⟩ := s.frameEnd.headAborts_footprint
    rw [State.abortedEnd, ha]
    exact h.congr rfl rfl rfl
  quietLine _ h _ := h.congr rfl rfl rfl
  badEnd _ h _ := h.congr rfl rfl rfl
  frameEnd _ h _ := h.congr rfl rfl rfl
  clashEnd s h _ := by
    unfold State.clashEnd
    split <;> exact h.congr rfl rfl rfl
  stages s f a h _ _ _ _ := by
    exact h.congr (State.stages_staging _ _ _) (by simp) (by simp)
  beacon s f h _ _ _ := by
    unfold State.takeBeacon
    split <;> exact h.congr rfl rfl rfl
  edge s f h _ := by
    obtain ⟨q, v, u, ht⟩ := s.takeEdgeReport_footprint f
    rw [ht]
    exact h.congr rfl rfl rfl
  schedule s f h _ := by
    obtain ⟨q, v, u, ht⟩ := s.takeSchedule_footprint f
    rw [ht]
    exact h.congr rfl rfl rfl
  stage _ f h hrunning := h.takeStage f hrunning
  release s f h _ := by
    unfold State.takeRelease
    split
    · exact h.congr rfl rfl rfl
    split
    · exact h
    · rename_i first rest _
      have hemptied : StagingSound (s.emptySlots (byteAt f.payload 0)) :=
        h.of_filled (fun _ _ hg => State.filled_of_emptySlots hg) rfl rfl
      obtain ⟨q, v, u, ho⟩ := (s.emptySlots (byteAt f.payload 0)).offer_footprint (first :: rest)
      rw [ho]
      exact hemptied.congr rfl rfl rfl
  scopeLeft _ _ h := h.congr rfl rfl rfl
  cancelScope s l h := by
    obtain ⟨q, v, hc⟩ := s.cancelScope_footprint l
    rw [hc]
    exact h.congr rfl rfl rfl
  cancelStaged _ _ _ _ h _ := h.of_filled (fun _ _ hg => State.filled_of_cancelStaged hg) rfl rfl
  rejectCancel _ h _ := h.congr rfl rfl rfl
  probe s f h _ := by
    obtain ⟨p, u, l, hp⟩ := s.takeProbe_footprint f
    rw [hp]
    exact h.congr rfl rfl rfl
  clear s f h _ := by
    obtain ⟨l, b, u, hc⟩ := s.takeClear_footprint f
    rw [hc]
    exact h.congr rfl rfl rfl
  sample s n level h _ := by
    obtain ⟨x, i, q, v, l, u, ht⟩ := s.takeSample_footprint n level
    rw [ht]
    exact h.congr rfl rfl rfl
  busTick s h _ := by
    obtain ⟨v, u, hb⟩ := s.busTick_footprint
    rw [hb]
    exact h.congr rfl rfl rfl
  onEnds _ _ h _ := h.congr rfl rfl rfl
  offEnds _ _ h _ := h.congr rfl rfl rfl
  recoverEnds _ _ h _ := h.congr rfl rfl rfl
  beaconTimer s h _ := by
    obtain ⟨l, hb⟩ := s.startBeacon_footprint
    rw [hb]
    exact h.congr rfl rfl rfl
  announcedTimer _ h _ := h.congr rfl rfl rfl
  silence _ _ h _ := h.congr rfl rfl rfl
  candidate _ _ h _ := h.congr rfl rfl rfl
  lapse _ _ _ h _ := h.of_filled (fun _ _ hg => filled_of_set_none hg) rfl rfl
  countDown s h _ c g hg := by
    rw [s.countDown_staged] at hg
    obtain ⟨k, hk, rfl⟩ := Option.map_eq_some_iff.mp hg
    obtain ⟨hrunning, htag, hoffset, hlifetime⟩ := h c k hk
    rw [s.countDown_loader, s.countDown_cfg]
    exact ⟨hrunning, htag, hoffset, (Nat.sub_le _ _).trans hlifetime⟩
  advance _ h _ := h.congr rfl rfl rfl

/-! ### Disabled channels -/

/-- A channel is enabled in the configuration (R70). -/
def State.isEnabled (s : State) (c : ChannelId) : Prop := s.cfg.channels[c].enabled = true

/-- A channel that is disabled is at rest. -/
def State.RestIfDisabled (s : State) (c : ChannelId) (k : Channel) : Prop :=
  s.cfg.channels[c].enabled = false → k = Channel.atReset

/-- A program for an enabled channel may do to it what it does. -/
theorem takesKeep_of_enabled {s : State} {c : ChannelId} (h : s.isEnabled c) (p : Program) :
    TakesKeep s.RestIfDisabled c p :=
  fun _ _ _ _ hdisabled => Bool.noConfusion (hdisabled.symm.trans h)

/-- The configuration and the loader as they were, and the station holds nothing for other channels than before, but
that an active one may hold what is for enabled channels. -/
theorem DisabledChannelsRest.of_changes {s t : State} (h : DisabledChannelsRest s)
    (rest : ∀ c : ChannelId, s.RestIfDisabled c t.channels[c])
    (idle : s.active = false → ∀ c : ChannelId, t.channels[c] = Channel.atReset)
    (entries : ∀ e ∈ t.queue, e ∈ s.queue ∨ (s.active = true ∧ s.isEnabled e.content.channel) := by
      exact fun _ h => .inl h)
    (slots : ∀ c : ChannelId, t.staging[c].isSome = true →
      s.staging[c].isSome = true ∨ (s.active = true ∧ s.isEnabled c) := by exact fun _ h => .inl h)
    (cfg : t.cfg = s.cfg := by rfl) (loader : t.loader = s.loader := by rfl)
    (bindings : t.bindings = s.bindings := by rfl) : DisabledChannelsRest t where
  entries e he := by
    rw [cfg]
    exact (entries e he).elim (h.entries e) And.right
  slots c hc := by
    rw [cfg]
    exact (slots c hc).elim (h.slots c) And.right
  bindings i b hb := by
    rw [cfg]
    exact h.bindings i b (bindings ▸ hb)
  rest c hc := rest c (cfg ▸ hc)
  inactiveNone hin := by
    rw [State.active_congr loader] at hin
    obtain ⟨hqueue, hstaging, hbindings, -⟩ := h.inactiveNone hin
    refine ⟨List.eq_nil_iff_forall_not_mem.mpr fun e he => ?_, fun c => ?_, fun i => ?_, idle hin⟩
    · rcases entries e he with he | ⟨hactive, -⟩
      · simp [hqueue] at he
      · simp [hin] at hactive
    · refine Option.not_isSome_iff_eq_none.mp fun hc => ?_
      rcases slots c hc with hc | ⟨hactive, -⟩
      · simp [hstaging c] at hc
      · simp [hin] at hactive
    · rw [bindings]
      exact hbindings i

/-- The channels as they were, and nothing for other channels than before. -/
theorem DisabledChannelsRest.congr {s t : State} (h : DisabledChannelsRest s)
    (entries : ∀ e ∈ t.queue, e ∈ s.queue := by exact fun _ h => h)
    (slots : ∀ c : ChannelId, t.staging[c].isSome = true → s.staging[c].isSome = true := by exact fun _ h => h)
    (channels : t.channels = s.channels := by rfl) (cfg : t.cfg = s.cfg := by rfl)
    (loader : t.loader = s.loader := by rfl) (bindings : t.bindings = s.bindings := by rfl) :
    DisabledChannelsRest t :=
  h.of_changes (by rw [channels]; exact h.rest) (fun hin => by rw [channels]; exact (h.inactiveNone hin).2.2.2)
    (fun e he => .inl (entries e he)) (fun c hc => .inl (slots c hc)) cfg loader bindings

/-- What the statement speaks of as it was. -/
theorem DisabledChannelsRest.of_same {s t : State} (h : DisabledChannelsRest s)
    (same : (t.queue, t.staging, t.channels, t.cfg, t.loader, t.bindings) =
      (s.queue, s.staging, s.channels, s.cfg, s.loader, s.bindings)) : DisabledChannelsRest t := by
  simp only [Prod.mk.injEq] at same
  obtain ⟨queue, staging, channels, cfg, loader, bindings⟩ := same
  exact h.congr (by rw [queue]; exact fun _ h => h) (by rw [staging]; exact fun _ h => h) channels cfg loader bindings

/-- At an active station it is enough that disabled channels rest. -/
theorem DisabledChannelsRest.of_active {s t : State} (h : DisabledChannelsRest s) (active : s.active = true)
    (rest : ∀ c : ChannelId, s.RestIfDisabled c t.channels[c])
    (entries : ∀ e ∈ t.queue, e ∈ s.queue ∨ s.isEnabled e.content.channel := by exact fun _ h => .inl h)
    (slots : ∀ c : ChannelId, t.staging[c].isSome = true → s.staging[c].isSome = true ∨ s.isEnabled c := by
      exact fun _ h => .inl h)
    (cfg : t.cfg = s.cfg := by rfl) (loader : t.loader = s.loader := by rfl)
    (bindings : t.bindings = s.bindings := by rfl) : DisabledChannelsRest t :=
  h.of_changes rest (fun hin => by simp [active] at hin) (fun e he => (entries e he).imp_right (⟨active, ·⟩))
    (fun c hc => (slots c hc).imp_right (⟨active, ·⟩)) cfg loader bindings

/-- A station that holds none of these. -/
theorem disabledChannelsRest_of_none {s : State} (hqueue : s.queue = []) (hstaging : ∀ c : ChannelId, s.staging[c] = none)
    (hbindings : ∀ (i : BindingId) (b : Binding), s.bindings[i] = some b →
      s.active = true ∧ s.isEnabled b.content.channel)
    (hchannels : ∀ c : ChannelId, s.channels[c] = Channel.atReset) : DisabledChannelsRest s where
  entries e he := by simp [hqueue] at he
  slots c hc := by simp [hstaging c] at hc
  bindings i b hb := (hbindings i b hb).2
  rest c _ := hchannels c
  inactiveNone hin := by
    refine ⟨hqueue, hstaging, fun i => ?_, hchannels⟩
    cases hb : s.bindings[i]
    case none => rfl
    case some b => exact absurd (hbindings i b hb).1 (by simp [hin])

/-- A reset leaves none of these. -/
theorem disabledChannelsRest_reset : DisabledChannelsRest State.reset :=
  disabledChannelsRest_of_none rfl (getElem_replicate_fin none)
    (fun i b hb => by rw [show State.reset.bindings[i] = none from getElem_replicate_fin none i] at hb; cases hb)
    (getElem_replicate_fin Channel.atReset)

/-! ### What names a channel names an enabled one -/

/-- A channel code that is valid names an enabled channel (R128). -/
theorem enabled_of_enabledChannelOf {channels : Vector ChannelConfig 8} {b : Byte} {c : ChannelId}
    (h : enabledChannelOf channels b = some c) : channels[c].enabled = true := by
  unfold enabledChannelOf at h
  split at h
  · split at h
    · cases h
      assumption
    · cases h
  · cases h

/-- A binding entry that passes the load check names an enabled channel (R128). -/
theorem enabled_of_judgeBinding {channels : Vector ChannelConfig 8} {e : List Byte} {c : BindingContent}
    (h : judgeBinding channels e = some c) : channels[c.channel].enabled = true := by
  simp only [judgeBinding, Option.bind_eq_bind, Option.bind_eq_some_iff] at h
  obtain ⟨edge, -, source, -, divider, -, h⟩ := h
  split at h
  · simp only [Option.bind_eq_some_iff, Option.some.injEq] at h
    obtain ⟨channel, hchannel, program, -, rfl⟩ := h
    exact enabled_of_enabledChannelOf hchannel
  · cases h

/-- A loaded binding names an enabled channel (R128). -/
theorem enabled_of_loadBindings {channels : Vector ChannelConfig 8} {block : List Byte} {i : BindingId} {b : Binding}
    (h : (loadBindings channels block)[i] = some b) : channels[b.content.channel].enabled = true := by
  have hload : loadBinding channels (bindingBytes block i.val) = some b := by
    simpa [loadBindings] using h
  unfold loadBinding at hload
  split at hload
  · obtain ⟨c, hc, rfl⟩ := Option.map_eq_some_iff.mp hload
    exact enabled_of_judgeBinding hc
  · cases hload

/-- The channels of a set that names no disabled one are enabled (R47, R102). -/
theorem State.enabled_of_namesDisabled {s : State} {set : Byte} (h : s.namesDisabled set = false) {c : ChannelId}
    (hc : set.getLsbD c.val = true) : s.isEnabled c := by
  have hmem : c ∈ channelsOf set := List.mem_filter.mpr ⟨List.mem_finRange c, hc⟩
  simpa [State.isEnabled] using List.any_eq_false.mp h c hmem

/-- The firings of a SCHEDULE are for the channels of its set. -/
theorem mem_scheduleFirings {f : Frame} {p : Program} {x : Firing} (h : x ∈ scheduleFirings f p) :
    (byteAt f.payload 0).getLsbD x.content.channel.val = true := by
  obtain ⟨c, hc, rfl⟩ := List.mem_map.mp h
  exact (List.mem_filter.mp hc).2

/-- The firings that a RELEASE collects are those of filled slots. -/
theorem filled_of_mem_collected {tag : Byte} {stamp : BusTime} {s : State} {x : Firing}
    (h : x ∈ s.collected tag stamp) : s.staging[x.content.channel].isSome = true := by
  obtain ⟨c, -, hc⟩ := List.mem_filterMap.mp h
  obtain rfl := channel_of_collected hc
  split at hc
  · obtain ⟨g, hg, -⟩ := Option.map_eq_some_iff.mp hc
    rw [hg]
    rfl
  · cases hc

/-! ### What reaches queue and channels -/

/-- An offer for enabled channels leaves the disabled ones at rest, and nothing in the queue for them. -/
theorem DisabledChannelsRest.offer {s : State} (h : DisabledChannelsRest s) (active : s.active = true) {fs : List Firing}
    (henabled : ∀ x ∈ fs, s.isEnabled x.content.channel) : DisabledChannelsRest (s.offer fs) := by
  have hrest := s.offer_all (Q := s.RestIfDisabled) fs (fun x hx => takesKeep_of_enabled (henabled x hx) _) h.rest
  have hentries : ∀ e ∈ (s.offer fs).queue, e ∈ s.queue ∨ s.isEnabled e.content.channel := by
    intro e he
    rcases s.offer_queue fs with hsame | ⟨-, -, hqueue⟩
    · exact .inl (hsame ▸ he)
    · rw [hqueue] at he
      rcases (mem_insertAll _ _ _).mp he with ⟨x, hx, rfl⟩ | he
      · exact .inr (henabled x (List.mem_filter.mp hx).1)
      · exact .inl (List.mem_filter.mp he).1
  obtain ⟨q, v, u, ho⟩ := s.offer_footprint fs
  rw [ho] at hrest hentries ⊢
  exact h.of_active active hrest hentries

/-- The judgment of an edge report leaves disabled channels at rest. -/
theorem DisabledChannelsRest.judgeReport {s : State} (h : DisabledChannelsRest s) (active : s.active = true)
    (sender : StationId) (r : EdgeReport) : DisabledChannelsRest (s.judgeReport sender r) := by
  unfold State.judgeReport
  generalize List.finRange 16 = is
  induction is generalizing s with
  | nil => exact h
  | cons i rest ih =>
    obtain ⟨q, v, u, hf⟩ := s.judgeEntry_footprint sender r i
    refine ih ?_ (by rw [hf]; exact active)
    unfold State.judgeEntry
    split
    · exact h
    rename_i b hb
    split
    · split
      · refine h.offer active fun x hx => ?_
        rw [List.mem_singleton.mp hx]
        exact h.bindings i b hb
      · exact h
    · exact h.of_same rfl

/-- An accepted edge leaves disabled channels at rest. -/
theorem DisabledChannelsRest.acceptEdge {s : State} (h : DisabledChannelsRest s) (active : s.active = true)
    (n : InputId) (rising : Bool) (time : BusTime) : DisabledChannelsRest (s.acceptEdge n rising time) := by
  have hcounted : DisabledChannelsRest
      (s.updateInput n fun i => { i with edgeCount := s.inputs[n].edgeCount + 1 }) := h.of_same rfl
  have hjudged := hcounted.judgeReport active s.cfg.ownId ⟨n, rising, s.inputs[n].edgeCount + 1, time⟩
  unfold State.acceptEdge
  dsimp only
  generalize State.judgeReport _ _ _ = judged at hjudged ⊢
  obtain ⟨i, l, u, hslot⟩ := judged.updateSlot_footprint n ⟨time, rising, s.inputs[n].edgeCount + 1, false⟩
  rw [hslot]
  exact hjudged.of_same rfl

/-- A sample of an input leaves disabled channels at rest. -/
theorem DisabledChannelsRest.takeSample {s : State} (h : DisabledChannelsRest s) (active : s.active = true)
    (n : InputId) (level : Bool) : DisabledChannelsRest (s.takeSample n level) := by
  have hsampled : DisabledChannelsRest ((s.seeLevel n level).updateInput n
      (Input.afterSample level s.cfg.inputs[n].period (s.filtered n level))) := h.of_same rfl
  unfold State.takeSample
  dsimp only
  split
  · split
    · exact hsampled.acceptEdge active n level _
    · exact hsampled
  all_goals exact hsampled

/-- A SCHEDULE that reaches the queue names enabled channels. -/
theorem DisabledChannelsRest.takeSchedule {s : State} (h : DisabledChannelsRest s) (active : s.active = true)
    (f : Frame) : DisabledChannelsRest (s.takeSchedule f) := by
  unfold State.takeSchedule
  split
  · exact h.of_same rfl
  split
  · exact h.of_same rfl
  rename_i hnames
  split
  · exact h.of_same rfl
  split
  · exact h.of_same rfl
  · exact h.offer active fun x hx =>
      State.enabled_of_namesDisabled (Bool.eq_false_of_not_eq_true hnames) (mem_scheduleFirings hx)

/-- A STAGE that fills slots names enabled channels. -/
theorem DisabledChannelsRest.takeStage {s : State} (h : DisabledChannelsRest s) (active : s.active = true)
    (f : Frame) : DisabledChannelsRest (s.takeStage f) := by
  rcases s.takeStage_cases f with ⟨r, hr⟩ | ⟨p, hp, ht⟩
  · rw [hr]
    exact h.of_same rfl
  · obtain ⟨hnames, -, -⟩ := State.judgeStage_ok hp
    rw [ht]
    refine h.of_active active h.rest (slots := fun c hc => ?_)
    rw [s.fillSlots_staged] at hc
    split at hc
    · exact .inr (State.enabled_of_namesDisabled hnames (by assumption))
    · exact .inl hc

/-- A RELEASE offers what slots of enabled channels held. -/
theorem DisabledChannelsRest.takeRelease {s : State} (h : DisabledChannelsRest s) (active : s.active = true)
    (f : Frame) : DisabledChannelsRest (s.takeRelease f) := by
  unfold State.takeRelease
  split
  · exact h.of_same rfl
  split
  · exact h
  · rename_i first rest hcollected
    have hemptied : DisabledChannelsRest (s.emptySlots (byteAt f.payload 0)) := by
      refine h.congr (slots := fun c hc => ?_)
      obtain ⟨g, hg⟩ := Option.isSome_iff_exists.mp hc
      rw [State.filled_of_emptySlots hg]
      rfl
    exact hemptied.offer active fun x hx => h.slots _ (filled_of_mem_collected (hcollected ▸ hx))

/-- A step of bus time adds nothing to the queue. -/
theorem State.mem_of_stepTime_queue {lead : Int} {s : State} {e : CueEntry} (h : e ∈ (s.stepTime lead).queue) :
    e ∈ s.queue := by
  obtain ⟨v, u, hstep⟩ := State.stepNotice_footprint s.timebase.busTime (advance s.timebase.busTime lead)
    (s.withTimebase { s.timebase with busTime := advance s.timebase.busTime lead })
  rw [State.stepTime, hstep] at h
  exact (List.mem_filter.mp h).1

/-- The timebase's action on a lead adds nothing to the queue. -/
theorem State.mem_of_takeLead_queue {lead : Int} {s : State} {e : CueEntry} (h : e ∈ (s.takeLead lead).queue) :
    e ∈ s.queue := by
  unfold State.takeLead at h
  split at h
  · split at h
    · exact State.mem_of_stepTime_queue h
    · exact h
  split at h
  · exact h
  split at h
  · exact State.mem_of_stepTime_queue (s := s.withTimebase { s.timebase with
      candidate := s.timebase.candidate.bind (reduceCandidate s.cfg.stepLimit lead) }) h
  unfold State.farLead at h
  split at h
  · exact h
  split at h
  · cases h
  · exact h

/-- The timebase's action on a lead leaves disabled channels at rest. -/
theorem DisabledChannelsRest.takeLead {s : State} (h : DisabledChannelsRest s) (active : s.active = true)
    (lead : Int) : DisabledChannelsRest (s.takeLead lead) := by
  have hrest := s.takeLead_all (Q := s.RestIfDisabled) lead (fun e he => takesKeep_of_enabled (h.entries e he) _) h.rest
  have hentries : ∀ e ∈ (s.takeLead lead).queue, e ∈ s.queue := fun e he => State.mem_of_takeLead_queue he
  obtain ⟨t, k, q, v, u, hl⟩ := s.takeLead_footprint lead
  rw [hl] at hrest hentries ⊢
  exact h.of_active active hrest fun e he => .inl (hentries e he)

/-- A scope of a CANCEL that acts removes entries and ends work. -/
theorem DisabledChannelsRest.cancelScope {s : State} (h : DisabledChannelsRest s) (l : ScopeLeft) :
    DisabledChannelsRest (s.cancelScope l) := by
  obtain ⟨scope, x, set, tag⟩ := l
  cases scope
  case queue => exact h.congr fun e he => (List.mem_filter.mp he).1
  case output =>
    have hrests : ∀ c : ChannelId, s.channels[c] = Channel.atReset →
        (s.cancelOutput set).channels[c] = Channel.atReset := by
      intro c hc
      rw [s.cancelOutput_channel, hc]
      exact ite_self _
    exact h.of_changes (fun c hc => hrests c (h.rest c hc)) fun hin c => hrests c ((h.inactiveNone hin).2.2.2 c)

/-- A tick of bus time delivers to enabled channels; an inactive station has nothing to deliver. -/
theorem DisabledChannelsRest.busTick {s : State} (h : DisabledChannelsRest s) : DisabledChannelsRest s.busTick := by
  cases hactive : s.active
  case false =>
    rw [State.busTick_of_empty (h.inactiveNone hactive).1]
    exact h.of_same rfl
  case true =>
    have hrest := s.busTick_all (Q := s.RestIfDisabled) (fun e he => takesKeep_of_enabled (h.entries e he) _) h.rest
    obtain ⟨v, u, hb⟩ := s.busTick_footprint
    rw [hb] at hrest ⊢
    exact h.of_active hactive hrest fun e he => .inl (List.mem_filter.mp he).1

/-- A channel that is not at rest is an enabled one of an active station. -/
theorem DisabledChannelsRest.active_of_phase {s : State} {c : ChannelId} (h : DisabledChannelsRest s)
    (hphase : s.channels[c].phase ≠ .idle) : s.active = true ∧ s.isEnabled c := by
  constructor
  · by_contra hnot
    exact hphase (by rw [(h.inactiveNone (Bool.eq_false_of_not_eq_true hnot)).2.2.2 c]; rfl)
  · by_contra hnot
    exact hphase (by rw [h.rest c (Bool.eq_false_of_not_eq_true hnot)]; rfl)

/-- The expiry of a phase changes a channel that is not at rest. -/
theorem DisabledChannelsRest.updateChannel {s : State} {c : ChannelId} (h : DisabledChannelsRest s)
    (hphase : s.channels[c].phase ≠ .idle) (f : Channel → Channel) : DisabledChannelsRest (s.updateChannel c f) := by
  obtain ⟨hactive, henabled⟩ := h.active_of_phase hphase
  refine h.of_active hactive (s.updateChannel_all (Q := s.RestIfDisabled) c f h.rest fun _ hdisabled => ?_)
  exact Bool.noConfusion (hdisabled.symm.trans henabled)

/-- The count of the timers leaves what is empty empty and what is at rest at rest. -/
theorem DisabledChannelsRest.countDown {s : State} (h : DisabledChannelsRest s) : DisabledChannelsRest s.countDown := by
  have hactive : s.countDown.active = s.active := by rw [State.active, State.active, s.countDown_loader]; rfl
  constructor
  · rw [s.countDown_queue, s.countDown_cfg]
    exact h.entries
  · intro c hc
    rw [s.countDown_staged, Option.isSome_map] at hc
    rw [s.countDown_cfg]
    exact h.slots c hc
  · rw [s.countDown_bindings, s.countDown_cfg]
    exact h.bindings
  · intro c hc
    rw [s.countDown_cfg] at hc
    rw [s.countDown_channel, h.rest c hc]
    rfl
  · intro hin
    obtain ⟨hqueue, hstaging, hbindings, hchannels⟩ := h.inactiveNone (hactive ▸ hin)
    refine ⟨by rw [s.countDown_queue, hqueue], fun c => by rw [s.countDown_staged, hstaging c, Option.map_none],
      fun i => by rw [s.countDown_bindings, hbindings i], fun c => ?_⟩
    rw [s.countDown_channel, hchannels c]
    rfl

/-- The end of a read that passes its checks finds the station empty, and loads bindings for enabled channels. -/
theorem DisabledChannelsRest.readGood {s : State} (b : List Byte) (h : DisabledChannelsRest s)
    (hlife : s.loader.life = .loading) : DisabledChannelsRest ((s.endRead b).enterJoining b) := by
  obtain ⟨hqueue, hstaging, -, hchannels⟩ :=
    h.inactiveNone (s.inactive_iff_loading_or_unconfigured.mpr (.inl hlife))
  refine disabledChannelsRest_of_none ((State.endRead_enterJoining_queue b s).trans hqueue) (fun c => ?_)
    (fun i d hb => ⟨rfl, ?_⟩) fun c => ?_
  · rw [State.endRead_enterJoining_staging]
    exact hstaging c
  · rw [State.endRead_enterJoining_bindings] at hb
    rw [State.isEnabled, State.endRead_enterJoining_cfg]
    exact enabled_of_loadBindings hb
  · rw [State.endRead_enterJoining_channels]
    exact hchannels c

/-- Every shared operation keeps disabled channels at rest. -/
theorem kept_disabledChannelsRest : Kept DisabledChannelsRest where
  pending _ _ h := h.of_same rfl
  choice _ _ h := h.of_same rfl
  hardReset _ _ := disabledChannelsRest_reset.of_same rfl
  restart s _ _ := disabledChannelsRest_of_none rfl (getElem_replicate_fin none)
    (fun i b hb => by rw [show s.restartNow.bindings[i] = none from getElem_replicate_fin none i] at hb; cases hb)
    (getElem_replicate_fin Channel.atReset)
  startRead _ h _ := ⟨h.entries, h.slots, h.bindings, h.rest, h.inactiveNone⟩
  readBad s _ h hlife _ _ := ⟨h.entries, h.slots, h.bindings, h.rest,
    fun _ => h.inactiveNone (s.inactive_iff_loading_or_unconfigured.mpr (.inl hlife))⟩
  readGood _ b h hlife _ _ := h.readGood b hlife
  enterRunning s levels h hlife _ := by
    unfold State.enterRunning
    dsimp only
    split
    · exact ⟨h.entries, h.slots, h.bindings, h.rest, nofun⟩
    · obtain ⟨l, hb⟩ := State.startBeacon_footprint (State.firstSamples levels ((s.withLoader
        { s.loader with life := .running, joinLeft := none }).withTimebase { s.timebase with sync := .synced }))
      rw [hb]
      exact ⟨h.entries, h.slots, h.bindings, h.rest, nofun⟩
  carrierJoins _ h _ := h.of_same rfl
  carrierBegins _ h _ _ := h.of_same rfl
  delimiter _ _ h _ := h.of_same rfl
  fragment _ h _ := h.of_same rfl
  mismatch _ _ h _ := h.of_same rfl
  fixOrder _ h _ := h.of_same rfl
  nextRound _ h _ := h.of_same rfl
  slotStarts s h := by
    obtain ⟨x, e, r, i, hs⟩ := s.slotStarts_footprint
    rw [hs]
    exact h.of_same rfl
  complete s _ h _ _ _ := by
    obtain ⟨i, l, a, u, hc⟩ := s.frameEnd.headCompletes_footprint
    rw [State.completeEnd, hc]
    exact h.of_same rfl
  aborted s _ h _ _ := by
    obtain ⟨i, l, a, u, ha⟩ := s.frameEnd.headAborts_footprint
    rw [State.abortedEnd, ha]
    exact h.of_same rfl
  quietLine _ h _ := h.of_same rfl
  badEnd _ h _ := h.of_same rfl
  frameEnd _ h _ := h.of_same rfl
  clashEnd s h _ := by
    unfold State.clashEnd
    split <;> exact h.of_same rfl
  stages s f a h hactive _ _ _ := by
    have hlead := h.takeLead hactive (s.frameLead f a)
    exact hlead.of_same rfl
  beacon s f h _ _ _ := by
    unfold State.takeBeacon
    split <;> exact h.of_same rfl
  edge s f h hrunning := by
    unfold State.takeEdgeReport
    split
    · exact h
    · exact h.judgeReport (State.active_of_running hrunning) _ _
  schedule _ f h hrunning := h.takeSchedule (State.active_of_running hrunning) f
  stage _ f h hrunning := h.takeStage (State.active_of_running hrunning) f
  release _ f h hrunning := h.takeRelease (State.active_of_running hrunning) f
  scopeLeft _ _ h := h.of_same rfl
  cancelScope _ l h := h.cancelScope l
  cancelStaged _ _ _ _ h _ := h.congr (slots := fun c hc => by
    obtain ⟨g, hg⟩ := Option.isSome_iff_exists.mp hc
    rw [State.filled_of_cancelStaged hg]
    rfl)
  rejectCancel _ h _ := h.of_same rfl
  probe s f h _ := by
    obtain ⟨p, u, l, hp⟩ := s.takeProbe_footprint f
    rw [hp]
    exact h.of_same rfl
  clear s f h _ := by
    obtain ⟨l, b, u, hc⟩ := s.takeClear_footprint f
    rw [hc]
    exact h.of_same rfl
  sample _ n level h hrunning := h.takeSample (State.active_of_running hrunning) n level
  busTick _ h _ := h.busTick
  onEnds _ c h hphase := h.updateChannel (c := c) (hphase ▸ nofun) _
  offEnds _ c h hphase := h.updateChannel (c := c) (hphase ▸ nofun) _
  recoverEnds _ c h hphase := h.updateChannel (c := c) (hphase ▸ nofun) _
  beaconTimer s h _ := by
    obtain ⟨l, hb⟩ := s.startBeacon_footprint
    rw [hb]
    exact h.of_same rfl
  announcedTimer _ h _ := h.of_same rfl
  silence _ _ h _ := h.of_same rfl
  candidate _ _ h _ := h.of_same rfl
  lapse _ _ _ h _ := h.congr (slots := fun c hc => by
    obtain ⟨g, hg⟩ := Option.isSome_iff_exists.mp hc
    rw [filled_of_set_none hg]
    rfl)
  countDown _ h _ := h.countDown
  advance _ h _ := h.of_same rfl

/-! ### The obligation -/

/-- Settles O58: a slot is filled by a STAGE that passes its checks alone, and what comes to queue, slots and bindings
names enabled channels, so that nothing meets a disabled one. -/
theorem stepsKeepStagingAndDisabledChannels : Obligations.StepsKeepStagingAndDisabledChannels :=
  fun s t hstep => ⟨fun h => kept_stagingSound.step s t h hstep, fun h => kept_disabledChannelsRest.step s t h hstep⟩

end Sys2Proof.Machine
end

section
/-! PROOF. Every step keeps rounds and carrier episodes alternating (R22, R141), and with them the peer table and the
last sender within the ring (R35, R142, R143, R157). -/

namespace Sys2Proof.Machine

/-- Rounds and episodes alternate, and peers and last sender are within the ring. -/
structure RingSound (s : State) : Prop where
  rounds : RoundsSound s
  peers : PeersSound s

/-! ### Rounds and episodes -/

/-- Activity, the round's presence, the carrier and whether the episode is quiet, as they were. -/
theorem RoundsSound.congr {s t : State} (h : RoundsSound s)
    (round : t.line.round.isSome = s.line.round.isSome := by rfl)
    (quiet : t.line.episode = .quiet ↔ s.line.episode = .quiet := by exact Iff.rfl)
    (carrier : t.ext.carrier = s.ext.carrier := by rfl) (active : t.active = s.active := by rfl) : RoundsSound t where
  roundIffQuiet ha := by rw [round, quiet]; exact h.roundIffQuiet (active ▸ ha)
  carrierIffEpisode ha := by rw [carrier, Ne, quiet]; exact h.carrierIffEpisode (active ▸ ha)
  inactiveNone ha := by
    obtain ⟨hround, hepisode⟩ := h.inactiveNone (active ▸ ha)
    exact ⟨Option.not_isSome_iff_eq_none.mp (by simp [round, hround]), quiet.mpr hepisode⟩

/-- On a quiet line a round is kept and there is no carrier. -/
theorem roundsSound_of_quiet {t : State} (active : t.active = true) (episode : t.line.episode = .quiet)
    (round : t.line.round.isSome = true) (carrier : t.ext.carrier = false) : RoundsSound t where
  roundIffQuiet _ := iff_of_true round episode
  carrierIffEpisode _ := iff_of_false (by simp [carrier]) (by simp [episode])
  inactiveNone hin := by simp [active] at hin

/-- In a carrier episode there is no round. -/
theorem roundsSound_of_episode {t : State} (active : t.active = true) (episode : t.line.episode ≠ .quiet)
    (round : t.line.round = none) (carrier : t.ext.carrier = true) : RoundsSound t where
  roundIffQuiet _ := iff_of_false (by simp [round]) episode
  carrierIffEpisode _ := iff_of_true carrier episode
  inactiveNone hin := by simp [active] at hin

/-- An inactive station keeps neither round nor episode. -/
theorem roundsSound_of_inactive {t : State} (active : t.active = false) (round : t.line.round = none)
    (episode : t.line.episode = .quiet) : RoundsSound t where
  roundIffQuiet ha := by simp [active] at ha
  carrierIffEpisode ha := by simp [active] at ha
  inactiveNone _ := ⟨round, episode⟩

/-- A carrier episode is an active station's. -/
theorem RoundsSound.active_of_episode {s : State} (h : RoundsSound s) (episode : s.line.episode ≠ .quiet) :
    s.active = true := by
  by_contra hnot
  exact episode (h.inactiveNone (Bool.eq_false_of_not_eq_true hnot)).2

/-- A frame end at an active station leaves a quiet line with a fresh round. -/
theorem roundsSound_frameEnd {s : State} (active : s.active = true) : RoundsSound s.frameEnd :=
  roundsSound_of_quiet active rfl rfl rfl

/-- In a carrier episode an active station has no round and sees the carrier. -/
theorem RoundsSound.of_episode {s : State} (h : RoundsSound s) (episode : s.line.episode ≠ .quiet) :
    s.line.round = none ∧ s.ext.carrier = true := by
  have hactive := h.active_of_episode episode
  exact ⟨Option.not_isSome_iff_eq_none.mp fun hround => episode ((h.roundIffQuiet hactive).mp hround),
    (h.carrierIffEpisode hactive).mpr episode⟩

/-- An episode that changes to another carrier episode. -/
theorem RoundsSound.nextEpisode {s t : State} (h : RoundsSound s) (before : s.line.episode ≠ .quiet)
    (after : t.line.episode ≠ .quiet) (round : t.line.round = s.line.round := by rfl)
    (carrier : t.ext.carrier = s.ext.carrier := by rfl) (active : t.active = s.active := by rfl) : RoundsSound t := by
  obtain ⟨hround, hcarrier⟩ := h.of_episode before
  exact roundsSound_of_episode (active.trans (h.active_of_episode before)) after (round.trans hround)
    (carrier.trans hcarrier)

/-- The receiver opens on a quiet line with a round, and in an episode without one (R22, R181). -/
theorem roundsSound_openReceiver {s : State} (active : s.active = true) : RoundsSound s.openReceiver := by
  cases hcarrier : s.ext.carrier
  case false =>
    exact roundsSound_of_quiet active (by simp [State.openReceiver, hcarrier])
      (by simp [State.openReceiver, hcarrier]) hcarrier
  case true =>
    exact roundsSound_of_episode active (by simp [State.openReceiver, hcarrier])
      (by simp [State.openReceiver, hcarrier]) hcarrier

/-- The start of a frame ends the round and begins an episode (R149). -/
theorem roundsSound_startFrame {s : State} (active : s.active = true) (r : Request) (bytes : List Byte) :
    RoundsSound (s.startFrame r bytes) := by
  cases r <;> exact roundsSound_of_episode active nofun rfl rfl

/-- What a slot start can do: nothing, or the start of the head request's frame at a RUNNING station that is not mute
(R148, R149). -/
theorem State.slotStarts_cases (s : State) : s.slotStarts = s ∨
    ∃ r rest bytes, s.loader.life = .running ∧ s.mute = false ∧ s.line.txList = r :: rest ∧
      s.requestFrame r = some bytes ∧ s.slotStarts = s.startFrame r bytes := by
  unfold State.slotStarts
  split
  · rename_i hc
    simp only [State.isRunning, Bool.and_eq_true, decide_eq_true_eq, Bool.not_eq_true'] at hc
    split
    · exact .inl rfl
    · rename_i r rest hlist
      split
      · exact .inl rfl
      · rename_i bytes hbytes
        exact .inr ⟨r, rest, bytes, hc.1.1, hc.1.2, hlist, hbytes, rfl⟩
  · exact .inl rfl

/-- A tick leaves a quiet line quiet and an episode an episode. -/
theorem Episode.tick_eq_quiet_iff (e : Episode) : e.tick = .quiet ↔ e = .quiet := by
  cases e <;> simp [Episode.tick]

/-- Whether the station is active is not changed by the count of its timers. -/
theorem State.countDown_active (s : State) : s.countDown.active = s.active := by
  rw [State.active, State.active, s.countDown_loader, Loader.tick]

/-- A reset leaves an inactive station. -/
theorem roundsSound_reset : RoundsSound State.reset := roundsSound_of_inactive rfl rfl rfl

/-- Every shared operation keeps rounds and episodes alternating. -/
theorem kept_roundsSound : Kept RoundsSound where
  pending _ _ h := h.congr
  choice _ _ h := h.congr
  hardReset _ _ := roundsSound_of_inactive rfl rfl rfl
  restart _ _ _ := roundsSound_of_inactive rfl rfl rfl
  startRead _ h _ := h.congr
  readBad s _ h hlife _ _ := by
    obtain ⟨hround, hepisode⟩ := h.inactiveNone (s.inactive_iff_loading_or_unconfigured.mpr (.inl hlife))
    exact roundsSound_of_inactive rfl hround hepisode
  readGood _ _ _ _ _ _ := roundsSound_openReceiver rfl
  enterRunning s levels h hlife _ := by
    have hactive : s.active = true := s.active_iff_joining_or_running.mpr (.inl hlife)
    unfold State.enterRunning
    dsimp only
    split
    · exact h.congr (active := hactive.symm)
    · obtain ⟨l, hb⟩ := State.startBeacon_footprint (State.firstSamples levels ((s.withLoader
        { s.loader with life := .running, joinLeft := none }).withTimebase { s.timebase with sync := .synced }))
      rw [hb]
      exact h.congr (active := hactive.symm)
  carrierJoins s h hc := by
    cases hactive : s.active
    case false =>
      obtain ⟨hround, hepisode⟩ := h.inactiveNone hactive
      exact roundsSound_of_inactive hactive hround hepisode
    case true =>
      have hepisode : s.line.episode ≠ .quiet := fun hq => hc ⟨hactive, hq⟩
      exact roundsSound_of_episode hactive hepisode (h.of_episode hepisode).1 rfl
  carrierBegins _ _ hactive _ := roundsSound_of_episode hactive nofun rfl rfl
  delimiter _ _ h hsearch := h.nextEpisode (by simp [hsearch]) nofun
  fragment _ h hsearch := h.nextEpisode (by simp [hsearch]) nofun
  mismatch _ _ h hown := h.nextEpisode (by simp [hown]) nofun
  fixOrder _ h _ := h.congr (round := Option.isSome_map)
  nextRound s h hend := h.congr (round := (Option.isSome_iff_ne_none.mpr (State.round_of_atRoundEnd hend)).symm)
  slotStarts s h := by
    rcases s.slotStarts_cases with hs | ⟨r, rest, bytes, hrunning, -, -, -, hs⟩
    · rwa [hs]
    · rw [hs]
      exact roundsSound_startFrame (State.active_of_running hrunning) r bytes
  complete s _ h hown _ _ := by
    have hactive : s.active = true := h.active_of_episode (by simp [hown])
    obtain ⟨i, l, a, u, hc⟩ := s.frameEnd.headCompletes_footprint
    rw [State.completeEnd, hc]
    exact (roundsSound_frameEnd hactive).congr
  aborted s _ h hown _ := by
    have hactive : s.active = true := h.active_of_episode (by simp [hown])
    obtain ⟨i, l, a, u, ha⟩ := s.frameEnd.headAborts_footprint
    rw [State.abortedEnd, ha]
    exact (roundsSound_frameEnd hactive).congr
  quietLine s h hin := by
    obtain ⟨hround, hepisode⟩ := h.inactiveNone hin
    exact roundsSound_of_inactive hin hround hepisode
  badEnd _ _ hreceiving := (roundsSound_frameEnd hreceiving.1).congr
  frameEnd _ _ hreceiving := roundsSound_frameEnd hreceiving.1
  clashEnd s _ hreceiving := by
    unfold State.clashEnd
    split <;> exact (roundsSound_frameEnd hreceiving.1).congr
  stages s f a h _ _ _ _ := by
    obtain ⟨t, k, q, v, u, hl⟩ := s.takeLead_footprint (s.frameLead f a)
    rw [State.stages, hl]
    exact h.congr
  beacon s f h _ _ _ := by
    unfold State.takeBeacon
    split <;> exact h.congr
  edge s f h _ := by
    obtain ⟨q, v, u, ht⟩ := s.takeEdgeReport_footprint f
    rw [ht]
    exact h.congr
  schedule s f h _ := by
    obtain ⟨q, v, u, ht⟩ := s.takeSchedule_footprint f
    rw [ht]
    exact h.congr
  stage s f h _ := by
    obtain ⟨g, u, ht⟩ := s.takeStage_footprint f
    rw [ht]
    exact h.congr
  release s f h _ := by
    obtain ⟨g, q, v, u, ht⟩ := s.takeRelease_footprint f
    rw [ht]
    exact h.congr
  scopeLeft _ _ h := h.congr
  cancelScope s l h := by
    obtain ⟨q, v, hc⟩ := s.cancelScope_footprint l
    rw [hc]
    exact h.congr
  cancelStaged _ _ _ _ h _ := h.congr
  rejectCancel _ h _ := h.congr
  probe s f h _ := by
    obtain ⟨p, u, l, hp⟩ := s.takeProbe_footprint f
    rw [hp]
    exact h.congr
  clear s f h _ := by
    obtain ⟨l, b, u, hc⟩ := s.takeClear_footprint f
    rw [hc]
    exact h.congr
  sample s n level h _ := by
    obtain ⟨x, i, q, v, l, u, ht⟩ := s.takeSample_footprint n level
    rw [ht]
    exact h.congr
  busTick s h _ := by
    obtain ⟨v, u, hb⟩ := s.busTick_footprint
    rw [hb]
    exact h.congr
  onEnds _ _ h _ := h.congr
  offEnds _ _ h _ := h.congr
  recoverEnds _ _ h _ := h.congr
  beaconTimer s h _ := by
    obtain ⟨l, hb⟩ := s.startBeacon_footprint
    rw [hb]
    exact h.congr
  announcedTimer _ h _ := h.congr
  silence _ _ h _ := h.congr
  candidate _ _ h _ := h.congr
  lapse _ _ _ h _ := h.congr
  countDown s h _ := h.congr (by rw [s.countDown_line, Line.tick, Option.isSome_map])
    (by rw [s.countDown_line]; exact Episode.tick_eq_quiet_iff _) (by rw [s.countDown_ext]) s.countDown_active
  advance _ h _ := h.congr

/-! ### The peers and the last sender -/

/-- What concerns the ring as it was, but that the entries of the ring's other stations may have changed. -/
theorem PeersSound.congr {s t : State} (h : PeersSound s) (last : t.line.lastSender = s.line.lastSender := by rfl)
    (mode : s.line.lastSender = none → t.line.mode = .openRound ∨ t.line.mode = s.line.mode := by
      exact fun _ => .inr rfl)
    (peers : ∀ x : StationId, s.peers[x] = Peer.atReset → t.peers[x] = Peer.atReset := by exact fun _ h => h)
    (cfg : t.cfg = s.cfg := by rfl) (active : t.active = s.active := by rfl) : PeersSound t where
  ownInRing ha := by rw [cfg]; exact h.ownInRing (active ▸ ha)
  lastInRing x hx := by rw [cfg, active]; exact h.lastInRing x (last ▸ hx)
  unknownIsOpen hx := (mode (last ▸ hx)).elim id (Eq.trans · (h.unknownIsOpen (last ▸ hx)))
  outsideAbsent x hx := by
    rw [cfg, active] at hx
    exact peers x (h.outsideAbsent x hx)

/-- A station of the ring becomes the last sender at an active station (R143). -/
theorem PeersSound.spokeLast {s : State} {x : StationId} (h : PeersSound s) (active : s.active = true)
    (ring : x.val < s.cfg.slots) : PeersSound (s.spokeLast x) where
  ownInRing := h.ownInRing
  lastInRing y hy := by
    cases hy
    exact ⟨active, ring⟩
  unknownIsOpen := nofun
  outsideAbsent := h.outsideAbsent

/-- The entry of another station of the ring changes at an active station (R157 to R159). -/
theorem PeersSound.updatePeer {s : State} {x : StationId} (h : PeersSound s) (active : s.active = true)
    (ring : x.val < s.cfg.slots) (other : x ≠ s.cfg.ownId) (f : Peer → Peer) : PeersSound (s.updatePeer x f) where
  ownInRing := h.ownInRing
  lastInRing := h.lastInRing
  unknownIsOpen := h.unknownIsOpen
  outsideAbsent y hy := by
    have hne : (x : Nat) ≠ y := by
      intro hxy
      obtain rfl : x = y := Fin.ext hxy
      rcases hy with hin | hown | hout
      · exact absurd active (by simpa [State.updatePeer, State.active] using hin)
      · exact other hown
      · exact absurd ring (not_lt.mpr hout)
    have hsame : (s.updatePeer x f).peers[y] = s.peers[y] := by
      simp [State.updatePeer, hne]
    rw [hsame]
    exact h.outsideAbsent y hy

/-- An inactive station that knows no sender and no peer. -/
theorem peersSound_of_inactive {t : State} (active : t.active = false) (last : t.line.lastSender = none)
    (mode : t.line.mode = .openRound) (peers : ∀ x : StationId, t.peers[x] = Peer.atReset) : PeersSound t where
  ownInRing ha := by simp [active] at ha
  lastInRing x hx := by simp [last] at hx
  unknownIsOpen _ := mode
  outsideAbsent x _ := peers x

/-- An inactive station knows no sender and no peer. -/
theorem PeersSound.of_inactive {s : State} (h : PeersSound s) (hin : s.active = false) :
    s.line.lastSender = none ∧ s.line.mode = .openRound ∧ ∀ x : StationId, s.peers[x] = Peer.atReset := by
  have hlast : s.line.lastSender = none := by
    cases hl : s.line.lastSender
    case none => rfl
    case some x => exact absurd (h.lastInRing x hl).1 (by simp [hin])
  exact ⟨hlast, h.unknownIsOpen hlast, fun x => h.outsideAbsent x (.inl hin)⟩

/-- A valid block puts the station's own identifier within its ring (R179). -/
theorem ownInRing_of_blockValid {b : List Byte} (h : blockValid b = true) :
    (paramsOf b).ownId.val < (paramsOf b).slots ∧ 2 ≤ (paramsOf b).slots ∧ (paramsOf b).slots ≤ 32 := by
  have hline : checkLine b = true := by
    simp only [blockValid, Bool.and_eq_true] at h
    exact h.1.1.1.1.2
  obtain ⟨hlow, hhigh, hown, -⟩ := (checkLine_iff b).mp hline
  refine ⟨?_, hlow, hhigh⟩
  have hid : (paramsOf b).ownId.val = (byteAt b 3).toNat := Nat.mod_eq_of_lt (hown.trans_le hhigh)
  rw [hid]
  exact hown

/-- The end of a read that passes its checks. -/
theorem PeersSound.readGood {s : State} {b : List Byte} (h : PeersSound s) (hlife : s.loader.life = .loading)
    (hvalid : blockValid b = true) : PeersSound ((s.endRead b).enterJoining b) := by
  obtain ⟨hlast, hmode, hpeers⟩ := h.of_inactive (s.inactive_iff_loading_or_unconfigured.mpr (.inl hlife))
  exact {
    ownInRing := fun _ => by
      rw [State.endRead_enterJoining_cfg]
      exact ownInRing_of_blockValid hvalid
    lastInRing := fun x hx => by
      rw [State.endRead_enterJoining_lastSender, hlast] at hx
      cases hx
    unknownIsOpen := fun _ => (State.endRead_enterJoining_mode b s).trans hmode
    outsideAbsent := fun x _ => by
      rw [State.endRead_enterJoining_peers]
      exact hpeers x }

/-- After a quiet round the mode is NORMAL only when a sender is known (R142). -/
theorem modeAfterQuiet_of_unknown (m : RoundMode) : modeAfterQuiet m none = .openRound := by
  cases m <;> rfl

/-- Serving a PEERS snapshot leaves an entry at reset as it is (R160). -/
theorem State.served_peer (sel : Selector) (s : State) (x : StationId) (h : s.peers[x] = Peer.atReset) :
    (s.served sel).peers[x] = Peer.atReset := by
  cases sel
  case peers =>
    change s.clearLost.peers[x] = Peer.atReset
    rw [State.clearLost, State.withPeers_peers, mapFamily_getElem, h]
    rfl
  all_goals exact h

/-- A PROBE leaves an entry at reset as it is. -/
theorem State.takeProbe_peer (f : Frame) (s : State) (x : StationId) (h : s.peers[x] = Peer.atReset) :
    (s.takeProbe f).peers[x] = Peer.atReset := by
  unfold State.takeProbe
  split
  · exact h
  split
  · exact h
  · rename_i sel _
    obtain ⟨l, hj⟩ := State.join_footprint .report
      ((s.served sel).withFaults { s.faults with latch := some (s.snapshot f sel) })
    rw [State.acceptProbe, hj]
    exact s.served_peer sel x h

/-- A PROBE keeps what concerns the ring. -/
theorem PeersSound.takeProbe {s : State} (h : PeersSound s) (f : Frame) : PeersSound (s.takeProbe f) := by
  have hpeers := s.takeProbe_peer f
  obtain ⟨p, u, l, hp⟩ := s.takeProbe_footprint f
  rw [hp] at hpeers ⊢
  exact h.congr (peers := hpeers)

/-- Stages 1 to 3 of an arrival from another station of the ring. -/
theorem PeersSound.stages {s : State} {f : Frame} (h : PeersSound s) (active : s.active = true)
    (ring : f.sender.val < s.cfg.slots) (other : f.sender ≠ s.cfg.ownId) (lead : Int) :
    PeersSound (s.stages f lead) := by
  obtain ⟨t, k, q, v, u, hl⟩ := s.takeLead_footprint lead
  rw [State.stages, hl]
  have hmoved : PeersSound ((((s.withTimebase ⟨t, s.timebase.sync, k⟩).withQueue q).withChannels v).withFaults u) :=
    h.congr
  exact (hmoved.updatePeer active ring other _).spokeLast active ring

/-- A frame end at a station leaves what concerns the ring. -/
theorem PeersSound.frameEnd {s : State} (h : PeersSound s) : PeersSound s.frameEnd := h.congr

/-- The frame end of a clash makes the station itself the last sender (R27). -/
theorem PeersSound.clashEnd {s : State} (h : PeersSound s) (active : s.active = true) : PeersSound s.clashEnd := by
  obtain ⟨hring, -⟩ := h.ownInRing active
  unfold State.clashEnd
  split
  · exact h.frameEnd.spokeLast active hring
  · have hmuted : PeersSound s.frameEnd.enterMute := h.congr
    exact hmuted.spokeLast active hring

/-- The completion of an own frame makes the station itself the last sender (R151). -/
theorem PeersSound.completeEnd {s : State} (h : PeersSound s) (active : s.active = true) :
    PeersSound s.completeEnd := by
  obtain ⟨hring, -⟩ := h.ownInRing active
  obtain ⟨i, l, a, u, hc⟩ := s.frameEnd.headCompletes_footprint
  rw [State.completeEnd, hc]
  exact PeersSound.spokeLast (s := State.withLine _ _) (h.congr) active hring

/-- The count of the timers leaves an entry at reset as it is. -/
theorem PeersSound.countDown {s : State} (h : PeersSound s) : PeersSound s.countDown :=
  h.congr (by rw [s.countDown_line, Line.tick]) (fun _ => .inr (by rw [s.countDown_line, Line.tick]))
    (fun x hx => by rw [s.countDown_peer, hx]; rfl) s.countDown_cfg s.countDown_active

/-- Every shared operation keeps the ring. -/
theorem kept_ringSound : Kept RingSound where
  pending s l h := ⟨kept_roundsSound.pending s l h.1, h.2.congr⟩
  choice s n h := ⟨kept_roundsSound.choice s n h.1, h.2.congr⟩
  hardReset s h := ⟨kept_roundsSound.hardReset s h.1,
    peersSound_of_inactive rfl rfl rfl (getElem_replicate_fin Peer.atReset)⟩
  restart s h hl := ⟨kept_roundsSound.restart s h.1 hl,
    peersSound_of_inactive rfl rfl rfl (getElem_replicate_fin Peer.atReset)⟩
  startRead s h hh := ⟨kept_roundsSound.startRead s h.1 hh, h.2.congr⟩
  readBad s b h hlife hleft hv := by
    obtain ⟨hlast, hmode, hpeers⟩ := h.2.of_inactive (s.inactive_iff_loading_or_unconfigured.mpr (.inl hlife))
    exact ⟨kept_roundsSound.readBad s b h.1 hlife hleft hv, peersSound_of_inactive rfl hlast hmode hpeers⟩
  readGood s b h hlife hleft hv := ⟨kept_roundsSound.readGood s b h.1 hlife hleft hv, h.2.readGood hlife hv⟩
  enterRunning s levels h hlife hleft := by
    refine ⟨kept_roundsSound.enterRunning s levels h.1 hlife hleft, ?_⟩
    have hactive : s.active = true := s.active_iff_joining_or_running.mpr (.inl hlife)
    unfold State.enterRunning
    dsimp only
    split
    · exact h.2.congr (active := hactive.symm)
    · obtain ⟨l, hb⟩ := State.startBeacon_footprint (State.firstSamples levels ((s.withLoader
        { s.loader with life := .running, joinLeft := none }).withTimebase { s.timebase with sync := .synced }))
      rw [hb]
      exact h.2.congr (active := hactive.symm)
  carrierJoins s h hc := ⟨kept_roundsSound.carrierJoins s h.1 hc, h.2.congr⟩
  carrierBegins s h ha hq := ⟨kept_roundsSound.carrierBegins s h.1 ha hq, h.2.congr⟩
  delimiter s n h he := ⟨kept_roundsSound.delimiter s n h.1 he, h.2.congr⟩
  fragment s h he := ⟨kept_roundsSound.fragment s h.1 he, h.2.congr⟩
  mismatch s t h he := ⟨kept_roundsSound.mismatch s t h.1 he, h.2.congr⟩
  fixOrder s h he := ⟨kept_roundsSound.fixOrder s h.1 he, h.2.congr⟩
  nextRound s h he := ⟨kept_roundsSound.nextRound s h.1 he,
    h.2.congr (mode := fun hlast => .inl (by rw [State.nextRound, hlast]; exact modeAfterQuiet_of_unknown _))⟩
  slotStarts s h := by
    refine ⟨kept_roundsSound.slotStarts s h.1, ?_⟩
    obtain ⟨x, e, r, i, hs⟩ := s.slotStarts_footprint
    rw [hs]
    exact h.2.congr
  complete s t h hown hd hl := ⟨kept_roundsSound.complete s t h.1 hown hd hl,
    h.2.completeEnd (h.1.active_of_episode (by simp [hown]))⟩
  aborted s t h hown hd := by
    refine ⟨kept_roundsSound.aborted s t h.1 hown hd, ?_⟩
    obtain ⟨i, l, a, u, ha⟩ := s.frameEnd.headAborts_footprint
    rw [State.abortedEnd, ha]
    exact h.2.congr (mode := fun _ => .inl rfl)
  quietLine s h hin := ⟨kept_roundsSound.quietLine s h.1 hin, h.2.congr⟩
  badEnd s h hr := ⟨kept_roundsSound.badEnd s h.1 hr, h.2.congr (mode := fun _ => .inl rfl)⟩
  frameEnd s h hr := ⟨kept_roundsSound.frameEnd s h.1 hr, h.2.frameEnd⟩
  clashEnd s h hr := ⟨kept_roundsSound.clashEnd s h.1 hr, h.2.clashEnd hr.1⟩
  stages s f a h ha hq hs hne := ⟨kept_roundsSound.stages s f a h.1 ha hq hs hne, h.2.stages ha hs hne _⟩
  beacon s f h hl hs hne := by
    refine ⟨kept_roundsSound.beacon s f h.1 hl hs hne, ?_⟩
    unfold State.takeBeacon
    split
    · exact h.2
    · exact h.2.updatePeer (State.active_of_running hl) hs hne _
  edge s f h hl := by
    refine ⟨kept_roundsSound.edge s f h.1 hl, ?_⟩
    obtain ⟨q, v, u, ht⟩ := s.takeEdgeReport_footprint f
    rw [ht]
    exact h.2.congr
  schedule s f h hl := by
    refine ⟨kept_roundsSound.schedule s f h.1 hl, ?_⟩
    obtain ⟨q, v, u, ht⟩ := s.takeSchedule_footprint f
    rw [ht]
    exact h.2.congr
  stage s f h hl := by
    refine ⟨kept_roundsSound.stage s f h.1 hl, ?_⟩
    obtain ⟨g, u, ht⟩ := s.takeStage_footprint f
    rw [ht]
    exact h.2.congr
  release s f h hl := by
    refine ⟨kept_roundsSound.release s f h.1 hl, ?_⟩
    obtain ⟨g, q, v, u, ht⟩ := s.takeRelease_footprint f
    rw [ht]
    exact h.2.congr
  scopeLeft s w h := ⟨kept_roundsSound.scopeLeft s w h.1, h.2.congr⟩
  cancelScope s l h := by
    refine ⟨kept_roundsSound.cancelScope s l h.1, ?_⟩
    obtain ⟨q, v, hc⟩ := s.cancelScope_footprint l
    rw [hc]
    exact h.2.congr
  cancelStaged s x set tag h hl := ⟨kept_roundsSound.cancelStaged s x set tag h.1 hl, h.2.congr⟩
  rejectCancel s h hl := ⟨kept_roundsSound.rejectCancel s h.1 hl, h.2.congr⟩
  probe s f h hl := ⟨kept_roundsSound.probe s f h.1 hl, h.2.takeProbe f⟩
  clear s f h hl := by
    refine ⟨kept_roundsSound.clear s f h.1 hl, ?_⟩
    obtain ⟨l, b, u, hc⟩ := s.takeClear_footprint f
    rw [hc]
    exact h.2.congr
  sample s n level h hl := by
    refine ⟨kept_roundsSound.sample s n level h.1 hl, ?_⟩
    obtain ⟨x, i, q, v, l, u, ht⟩ := s.takeSample_footprint n level
    rw [ht]
    exact h.2.congr
  busTick s h hh := by
    refine ⟨kept_roundsSound.busTick s h.1 hh, ?_⟩
    obtain ⟨v, u, hb⟩ := s.busTick_footprint
    rw [hb]
    exact h.2.congr
  onEnds s c h hp := ⟨kept_roundsSound.onEnds s c h.1 hp, h.2.congr⟩
  offEnds s c h hp := ⟨kept_roundsSound.offEnds s c h.1 hp, h.2.congr⟩
  recoverEnds s c h hp := ⟨kept_roundsSound.recoverEnds s c h.1 hp, h.2.congr⟩
  beaconTimer s h ht := by
    refine ⟨kept_roundsSound.beaconTimer s h.1 ht, ?_⟩
    obtain ⟨l, hb⟩ := s.startBeacon_footprint
    rw [hb]
    exact h.2.congr
  announcedTimer s h ht := ⟨kept_roundsSound.announcedTimer s h.1 ht, h.2.congr⟩
  silence s x h hp := by
    have hnot : s.peers[x] ≠ Peer.atReset := fun hreset => by rw [hreset] at hp; cases hp
    have hin : ¬(s.active = false ∨ x = s.cfg.ownId ∨ s.cfg.slots ≤ x.val) := fun ho => hnot (h.2.outsideAbsent x ho)
    simp only [not_or, not_le] at hin
    exact ⟨kept_roundsSound.silence s x h.1 hp, h.2.updatePeer (by simpa using hin.1) hin.2.2 hin.2.1 _⟩
  candidate s k h hc := ⟨kept_roundsSound.candidate s k h.1 hc, h.2.congr⟩
  lapse s c g h hg := ⟨kept_roundsSound.lapse s c g h.1 hg, h.2.congr⟩
  countDown s h hh := ⟨kept_roundsSound.countDown s h.1 hh, h.2.countDown⟩
  advance s h hd := ⟨kept_roundsSound.advance s h.1 hd, h.2.congr⟩

/-! ### The obligation -/

/-- Settles O57: rounds and episodes on their own, the ring together with them, since an own frame that completes is an
active station's. -/
theorem stepsKeepRoundsAndPeers : Obligations.StepsKeepRoundsAndPeers :=
  fun s t h hstep => ⟨kept_roundsSound.step s t h hstep, fun hpeers => (kept_ringSound.step s t ⟨h, hpeers⟩ hstep).2⟩

end Sys2Proof.Machine
end

section
/-! PROOF. The transmit list and its owners (R112, R137 to R139, R171): what joins it, what leaves it, and what an
edge of an input does to the capture slot and the list. -/

namespace Sys2Proof.Machine

/-! ### A slot in flight -/

/-- A slot is in flight when it is full and its content is marked so (R119). -/
theorem Input.slotInFlight_iff {i : Input} :
    i.slotInFlight = true ↔ ∃ g, i.slot = some g ∧ g.inFlight = true := by
  unfold Input.slotInFlight
  cases i.slot <;> simp

/-! ### The list of a station with access to the line -/

/-- The station has access to the line: it is RUNNING and not mute (R137, R153). -/
structure State.HasAccess (s : State) : Prop where
  running : s.loader.life = .running
  speaks : s.mute = false

/-- With access a request that does not stand joins at the tail (R137). -/
theorem State.join_of_access {s : State} {r : Request} (access : s.HasAccess) (hnew : r ∉ s.line.txList) :
    s.join r = s.withLine { s.line with txList := s.line.txList ++ [r] } := by
  simp [State.join, State.isRunning, access.running, access.speaks, hnew]

/-- A request that stands does not join again (R137). -/
theorem State.join_of_mem {s : State} {r : Request} (h : r ∈ s.line.txList) : s.join r = s := by
  simp [State.join, h]

/-- While the station is mute no request joins (R153). -/
theorem State.join_of_mute {s : State} (h : s.mute = true) (r : Request) : s.join r = s := by
  simp [State.join, h]

/-- Whether the owner of a request has something to send: a full slot, a latched snapshot (R112, R137, R171). -/
def State.owes (s : State) : Request → Bool
  | .edge n => s.inputs[n].slot.isSome
  | .report => s.faults.latch.isSome
  | .beacon => false

/-- The list of a station with access, the request `r` apart: what else stands in it and what its owners owe agree. -/
structure ListSoundBut (r : Option Request) (s : State) : Prop where
  access : s.HasAccess
  nodup : s.line.txList.Nodup
  apart : ∀ x, r = some x → x ∉ s.line.txList
  attemptsBound : s.line.attempts ≤ 7
  attemptsEmpty : s.line.txList = [] → s.line.attempts = 0
  owed : ∀ x, x ≠ .beacon → r ≠ some x → (x ∈ s.line.txList ↔ s.owes x = true)
  followOnInFlight : ∀ n : InputId, s.inputs[n].followOn.isSome = true → s.inputs[n].slotInFlight = true
  ownTransmission : ∀ x, s.line.episode = .own x → s.line.txList ≠ []

/-- The list agrees with its owners, and the beacon timer runs. -/
theorem ListSoundBut.sound {s : State} (h : ListSoundBut none s) (beacon : s.line.beaconTimer.isSome = true) :
    RequestsSound s where
  nodup := h.nodup
  onlyRunning _ := ⟨h.access.running, h.access.speaks⟩
  attemptsBound := h.attemptsBound
  attemptsEmpty := h.attemptsEmpty
  reportIffLatch := h.owed .report nofun nofun
  edgeIffSlot _ _ n := h.owed (.edge n) nofun nofun
  slotOnlyRunning hnot := absurd h.access.running hnot
  followOnInFlight := h.followOnInFlight
  beaconTimerRuns := iff_of_true beacon ⟨h.access.running, h.access.speaks⟩
  announcedRuns _ := ⟨h.access.running, h.access.speaks⟩
  ownTransmission x hx := ⟨h.access.running, h.access.speaks, h.ownTransmission x hx⟩

/-- The list of a station with access agrees with its owners. -/
theorem RequestsSound.listed {s : State} (h : RequestsSound s) (access : s.HasAccess) : ListSoundBut none s where
  access := access
  nodup := h.nodup
  apart := nofun
  attemptsBound := h.attemptsBound
  attemptsEmpty := h.attemptsEmpty
  owed x hx _ := by
    cases x with
    | edge n => exact h.edgeIffSlot access.running access.speaks n
    | report => exact h.reportIffLatch
    | beacon => exact absurd rfl hx
  followOnInFlight := h.followOnInFlight
  ownTransmission x hx := (h.ownTransmission x hx).2.2

/-- The request apart joins when its owner has something to send. -/
theorem ListSoundBut.join {s : State} {r : Request} (h : ListSoundBut (some r) s)
    (howes : r ≠ .beacon → s.owes r = true) : ListSoundBut none (s.join r) := by
  have hnew := h.apart r rfl
  rw [State.join_of_access h.access hnew]
  exact {
    access := ⟨h.access.running, h.access.speaks⟩
    nodup := List.nodup_append_comm.mp (List.nodup_cons.mpr ⟨hnew, h.nodup⟩)
    apart := nofun
    attemptsBound := h.attemptsBound
    attemptsEmpty := fun hnil => absurd hnil (by simp)
    owed := fun x hx _ => by
      change x ∈ s.line.txList ++ [r] ↔ s.owes x = true
      by_cases hxr : x = r
      · simp [hxr, howes (hxr ▸ hx)]
      · rw [List.mem_append, List.mem_singleton, or_iff_left hxr]
        exact h.owed x hx fun hsome => hxr (Option.some.inj hsome).symm
    followOnInFlight := h.followOnInFlight
    ownTransmission := fun _ _ => by simp }

/-- The request apart is gone when its owner has nothing to send. -/
theorem ListSoundBut.leave {s : State} {r : Request} (h : ListSoundBut (some r) s)
    (howes : r ≠ .beacon → s.owes r = false) : ListSoundBut none s where
  access := h.access
  nodup := h.nodup
  apart := nofun
  attemptsBound := h.attemptsBound
  attemptsEmpty := h.attemptsEmpty
  owed x hx _ := by
    by_cases hxr : x = r
    · simp [hxr, howes (hxr ▸ hx), h.apart r rfl]
    · exact h.owed x hx fun hsome => hxr (Option.some.inj hsome).symm
  followOnInFlight := h.followOnInFlight
  ownTransmission := h.ownTransmission

/-- A change after which the owners other than that of `q`, which does not stand, owe what they owed. -/
theorem ListSoundBut.change {s t : State} {r : Option Request} (h : ListSoundBut r s) (q : Option Request)
    (apart : ∀ x, q = some x → x ∉ s.line.txList)
    (owes : ∀ x, x ≠ .beacon → q ≠ some x → r ≠ some x ∧ t.owes x = s.owes x)
    (follow : ∀ n : InputId, t.inputs[n].followOn.isSome = true → t.inputs[n].slotInFlight = true)
    (own : ∀ x, t.line.episode = .own x → ∃ y, s.line.episode = .own y)
    (same : (t.line.txList, t.line.attempts, t.loader.life, t.mute) =
      (s.line.txList, s.line.attempts, s.loader.life, s.mute)) : ListSoundBut q t := by
  simp only [Prod.mk.injEq] at same
  obtain ⟨txList, attempts, life, mute⟩ := same
  exact {
    access := ⟨life.trans h.access.running, mute.trans h.access.speaks⟩
    nodup := by rw [txList]; exact h.nodup
    apart := by rw [txList]; exact apart
    attemptsBound := by rw [attempts]; exact h.attemptsBound
    attemptsEmpty := by rw [txList, attempts]; exact h.attemptsEmpty
    owed := fun x hx hq => by
      obtain ⟨hr, howes⟩ := owes x hx hq
      rw [txList, howes]
      exact h.owed x hx hr
    followOnInFlight := follow
    ownTransmission := fun x hx => by
      obtain ⟨y, hy⟩ := own x hx
      rw [txList]
      exact h.ownTransmission y hy }

/-! ### The list of a station without access -/

/-- What the list and its owners are at a station without access. -/
theorem requestsSound_of_no_access {t : State} (access : ¬t.HasAccess) (txList : t.line.txList = [])
    (attempts : t.line.attempts = 0) (latch : t.faults.latch = none)
    (slots : t.loader.life ≠ .running → ∀ n : InputId, t.inputs[n].slot = none)
    (follow : ∀ n : InputId, t.inputs[n].followOn.isSome = true → t.inputs[n].slotInFlight = true)
    (beacon : t.line.beaconTimer = none) (announced : t.line.announcedTimer = none)
    (own : ∀ x, t.line.episode ≠ .own x) : RequestsSound t where
  nodup := by rw [txList]; exact List.nodup_nil
  onlyRunning hne := absurd txList hne
  attemptsBound := by omega
  attemptsEmpty _ := attempts
  reportIffLatch := by simp [txList, latch]
  edgeIffSlot hlife hmute := absurd ⟨hlife, hmute⟩ access
  slotOnlyRunning hnot n := by
    refine ⟨slots hnot n, Option.not_isSome_iff_eq_none.mp fun hf => ?_⟩
    obtain ⟨g, hg, -⟩ := Input.slotInFlight_iff.mp (follow n hf)
    cases (slots hnot n).symm.trans hg
  followOnInFlight := follow
  beaconTimerRuns := iff_of_false (by simp [beacon]) fun ⟨hlife, hmute⟩ => access ⟨hlife, hmute⟩
  announcedRuns h := by simp [announced] at h
  ownTransmission x hx := absurd hx (own x)

/-- Without access nothing stands, nothing waits and no timer of the line runs. -/
theorem RequestsSound.without_access {s : State} (h : RequestsSound s) (access : ¬s.HasAccess) :
    s.line.txList = [] ∧ s.line.attempts = 0 ∧ s.faults.latch = none ∧ s.line.beaconTimer = none ∧
      s.line.announcedTimer = none ∧ ∀ x, s.line.episode ≠ .own x := by
  have hno : ¬(s.loader.life = .running ∧ s.mute = false) := fun ⟨hlife, hmute⟩ => access ⟨hlife, hmute⟩
  have hlist : s.line.txList = [] := by
    by_contra hne
    exact hno (h.onlyRunning hne)
  refine ⟨hlist, h.attemptsEmpty hlist, ?_, ?_, ?_, fun x hx => ?_⟩
  · refine Option.not_isSome_iff_eq_none.mp fun hc => ?_
    have hmem := h.reportIffLatch.mpr hc
    rw [hlist] at hmem
    cases hmem
  · exact Option.not_isSome_iff_eq_none.mp fun hc => hno (h.beaconTimerRuns.mp hc)
  · exact Option.not_isSome_iff_eq_none.mp fun hc => hno (h.announcedRuns hc)
  · obtain ⟨hlife, hmute, -⟩ := h.ownTransmission x hx
    exact hno ⟨hlife, hmute⟩

/-- Outside RUNNING no slot is full. -/
theorem RequestsSound.slot_empty {s : State} (h : RequestsSound s) (hnot : s.loader.life ≠ .running) (n : InputId) :
    s.inputs[n].slot = none := (h.slotOnlyRunning hnot n).1

/-! ### Changes that leave the list and its owners -/

/-- The list and its attempts, the latch and access as they were; the slots full where they were. -/
theorem RequestsSound.of_slots {s t : State} (h : RequestsSound s)
    (slots : ∀ n : InputId, t.inputs[n].slot.isSome = s.inputs[n].slot.isSome)
    (follow : ∀ n : InputId, t.inputs[n].followOn.isSome = true → t.inputs[n].slotInFlight = true)
    (own : ∀ x, t.line.episode = .own x → ∃ y, s.line.episode = .own y)
    (same : (t.line.txList, t.line.attempts, t.line.beaconTimer.isSome, t.line.announcedTimer.isSome, t.faults.latch,
        t.loader.life, t.mute) =
      (s.line.txList, s.line.attempts, s.line.beaconTimer.isSome, s.line.announcedTimer.isSome, s.faults.latch,
        s.loader.life, s.mute)) : RequestsSound t := by
  simp only [Prod.mk.injEq] at same
  obtain ⟨txList, attempts, beacon, announced, latch, life, mute⟩ := same
  exact {
    nodup := by rw [txList]; exact h.nodup
    onlyRunning := by rw [txList, life, mute]; exact h.onlyRunning
    attemptsBound := by rw [attempts]; exact h.attemptsBound
    attemptsEmpty := by rw [txList, attempts]; exact h.attemptsEmpty
    reportIffLatch := by rw [txList, latch]; exact h.reportIffLatch
    edgeIffSlot := by
      rw [life, mute, txList]
      intro hlife hmute n
      rw [slots n]
      exact h.edgeIffSlot hlife hmute n
    slotOnlyRunning := fun hnot n => by
      have hslot : t.inputs[n].slot = none := by
        rw [life] at hnot
        refine Option.not_isSome_iff_eq_none.mp ?_
        rw [slots n, h.slot_empty hnot n]
        exact Bool.false_ne_true
      refine ⟨hslot, Option.not_isSome_iff_eq_none.mp fun hf => ?_⟩
      obtain ⟨g, hg, -⟩ := Input.slotInFlight_iff.mp (follow n hf)
      cases hslot.symm.trans hg
    followOnInFlight := follow
    beaconTimerRuns := by rw [beacon, life, mute]; exact h.beaconTimerRuns
    announcedRuns := by rw [announced, life, mute]; exact h.announcedRuns
    ownTransmission := fun x hx => by
      obtain ⟨y, hy⟩ := own x hx
      rw [life, mute, txList]
      exact h.ownTransmission y hy }

/-- The inputs, too, as they were. -/
theorem RequestsSound.congr {s t : State} (h : RequestsSound s) (inputs : t.inputs = s.inputs)
    (own : ∀ x, t.line.episode = .own x → ∃ y, s.line.episode = .own y)
    (same : (t.line.txList, t.line.attempts, t.line.beaconTimer.isSome, t.line.announcedTimer.isSome, t.faults.latch,
        t.loader.life, t.mute) =
      (s.line.txList, s.line.attempts, s.line.beaconTimer.isSome, s.line.announcedTimer.isSome, s.faults.latch,
        s.loader.life, s.mute)) : RequestsSound t :=
  h.of_slots (fun n => by rw [inputs]) (fun n => by rw [inputs]; exact h.followOnInFlight n) own same

/-- What raises flags or records reasons touches neither the latch nor mute. -/
theorem RequestsSound.of_raised {s t : State} (h : RequestsSound s) (raised : s.faults.Raised t.faults)
    (line : t.line = s.line) (inputs : t.inputs = s.inputs) (loader : t.loader = s.loader) : RequestsSound t :=
  h.congr inputs (fun x hx => ⟨x, by rw [← line]; exact hx⟩)
    (by rw [line, loader, raised.latch, State.mute_of_raised raised])

/-! ### A change of one input -/

/-- The changed input, and the others. -/
theorem State.updateInput_input (n m : InputId) (f : Input → Input) (s : State) :
    (s.updateInput n f).inputs[m] = if m = n then f s.inputs[n] else s.inputs[m] := by
  by_cases hmn : m = n
  · subst hmn
    simp [State.updateInput]
  · have hne : (n : Nat) ≠ m := fun h => hmn (Fin.ext h.symm)
    simp [State.updateInput, hmn, hne]

/-- Whose follow-ons stand behind a slot in flight, with one input changed to such a one. -/
theorem State.followOn_updateInput {s : State} {n : InputId} {f : Input → Input}
    (h : ∀ m : InputId, s.inputs[m].followOn.isSome = true → s.inputs[m].slotInFlight = true)
    (follow : (f s.inputs[n]).followOn.isSome = true → (f s.inputs[n]).slotInFlight = true) (m : InputId) :
    (s.updateInput n f).inputs[m].followOn.isSome = true → (s.updateInput n f).inputs[m].slotInFlight = true := by
  rw [s.updateInput_input]
  split
  · exact follow
  · exact h m

/-- A change of one input leaves what the other owners owe. -/
theorem State.owes_updateInput (s : State) (n : InputId) (f : Input → Input) {x : Request} (hx : x ≠ .edge n) :
    (s.updateInput n f).owes x = s.owes x := by
  cases x with
  | edge m =>
    change (s.updateInput n f).inputs[m].slot.isSome = s.inputs[m].slot.isSome
    rw [s.updateInput_input, if_neg fun hmn => hx (congrArg Request.edge hmn)]
  | report => rfl
  | beacon => rfl

/-- What the owner of the changed input owes. -/
theorem State.owes_updateInput_self (s : State) (n : InputId) (f : Input → Input) :
    (s.updateInput n f).owes (.edge n) = (f s.inputs[n]).slot.isSome := by
  change (s.updateInput n f).inputs[n].slot.isSome = _
  rw [s.updateInput_input, if_pos rfl]

/-- A change of one input whose slot stays as full as it was. -/
theorem RequestsSound.updateInput {s : State} (h : RequestsSound s) (n : InputId) (f : Input → Input)
    (slot : (f s.inputs[n]).slot.isSome = s.inputs[n].slot.isSome)
    (follow : (f s.inputs[n]).followOn.isSome = true → (f s.inputs[n]).slotInFlight = true) :
    RequestsSound (s.updateInput n f) := by
  refine h.of_slots (fun m => ?_) (State.followOn_updateInput h.followOnInFlight follow) (fun x hx => ⟨x, hx⟩) rfl
  rw [s.updateInput_input]
  split
  · rename_i hmn
    rw [hmn]
    exact slot
  · rfl

/-! ### A new edge (R118) -/

/-- Behind an empty slot there is no follow-on. -/
theorem RequestsSound.no_followOn {s : State} (h : RequestsSound s) {n : InputId} (hempty : s.inputs[n].slot = none) :
    s.inputs[n].followOn.isSome ≠ true := fun hf => by
  obtain ⟨g, hg, -⟩ := Input.slotInFlight_iff.mp (h.followOnInFlight n hf)
  cases hempty.symm.trans hg

/-- The slot of an input fills (R112). -/
def Input.fill (c : Capture) (i : Input) : Input := { i with slot := some ⟨c, false⟩ }

/-- An input whose slot fills raises its request (R118, R137). -/
theorem RequestsSound.fillSlot {s : State} (h : RequestsSound s) (running : s.loader.life = .running) (n : InputId)
    (c : Capture) (hempty : s.inputs[n].slot = none) :
    RequestsSound ((s.updateInput n (Input.fill c)).join (.edge n)) := by
  have hfollow := State.followOn_updateInput (f := Input.fill c) h.followOnInFlight
    fun hf => absurd hf (h.no_followOn hempty)
  by_cases access : s.HasAccess
  · have hnew : Request.edge n ∉ s.line.txList := fun hmem => by
      have hfull := (h.edgeIffSlot access.running access.speaks n).mp hmem
      rw [hempty] at hfull
      cases hfull
    have hlist : ListSoundBut (some (.edge n)) (s.updateInput n (Input.fill c)) :=
      (h.listed access).change (some (.edge n)) (fun x hx => Option.some.inj hx ▸ hnew)
        (fun x _ hne => ⟨nofun, s.owes_updateInput n _ fun hx => hne (congrArg some hx.symm)⟩) hfollow
        (fun x hx => ⟨x, hx⟩) rfl
    have hbeacon : ((s.updateInput n (Input.fill c)).join (.edge n)).line.beaconTimer.isSome = true := by
      rw [State.join_of_access hlist.access hnew]
      exact h.beaconTimerRuns.mpr ⟨access.running, access.speaks⟩
    exact (hlist.join fun _ => s.owes_updateInput_self n _).sound hbeacon
  · have hmute : s.mute = true := by
      by_contra hm
      exact access ⟨running, Bool.eq_false_of_not_eq_true hm⟩
    obtain ⟨hlist, hattempts, hlatch, hbeacon, hannounced, hown⟩ := h.without_access access
    rw [State.join_of_mute (s := s.updateInput n _) hmute]
    exact requestsSound_of_no_access (fun ⟨hlife, hspeaks⟩ => access ⟨hlife, hspeaks⟩) hlist hattempts hlatch
      (fun hnot => absurd running hnot) hfollow hbeacon hannounced hown

/-- A flag other than ID_CLASH keeps the list with its owners. -/
theorem RequestsSound.setFlag {s : State} (h : RequestsSound s) {f : Flag} (hf : f ≠ .idClash) :
    RequestsSound (s.setFlag f) := h.of_raised (s.setFlag_raised f hf) rfl rfl rfl

/-- An edge updates the capture slot (R118). -/
theorem RequestsSound.updateSlot {s : State} (h : RequestsSound s) (running : s.loader.life = .running) (n : InputId)
    (c : Capture) : RequestsSound (s.updateSlot n c) := by
  unfold State.updateSlot
  split
  · rename_i hempty
    exact h.fillSlot running n c hempty
  rename_i held hheld
  split
  · rename_i hflight
    have hin : s.inputs[n].slotInFlight = true := Input.slotInFlight_iff.mpr ⟨held, hheld, hflight⟩
    split
    · exact RequestsSound.setFlag (h.updateInput n _ rfl fun _ => hin) nofun
    · exact h.updateInput n _ rfl fun _ => hin
  · rename_i hflight
    refine RequestsSound.setFlag (h.updateInput n _ (by rw [hheld]; rfl) fun hf => ?_) nofun
    obtain ⟨g, hg, hin⟩ := Input.slotInFlight_iff.mp (h.followOnInFlight n hf)
    rw [hheld] at hg
    cases hg
    exact absurd hin hflight

/-- An accepted edge keeps the list with its owners. -/
theorem RequestsSound.acceptEdge {s : State} (h : RequestsSound s) (running : s.loader.life = .running) (n : InputId)
    (rising : Bool) (time : BusTime) : RequestsSound (s.acceptEdge n rising time) := by
  have hcounted : RequestsSound (s.updateInput n fun i => { i with edgeCount := s.inputs[n].edgeCount + 1 }) :=
    h.updateInput n _ rfl (h.followOnInFlight n)
  have hraised := State.judgeReport_raised s.cfg.ownId ⟨n, rising, s.inputs[n].edgeCount + 1, time⟩
    (s.updateInput n fun i => { i with edgeCount := s.inputs[n].edgeCount + 1 })
  obtain ⟨q, v, u, hj⟩ := State.judgeReport_footprint s.cfg.ownId ⟨n, rising, s.inputs[n].edgeCount + 1, time⟩
    (s.updateInput n fun i => { i with edgeCount := s.inputs[n].edgeCount + 1 })
  unfold State.acceptEdge
  dsimp only
  rw [hj] at hraised ⊢
  exact RequestsSound.updateSlot (hcounted.of_raised hraised (by simp) (by simp) (by simp)) running n _

/-- What a sample leaves of the slot and the follow-on. -/
theorem Input.afterSample_slot (level : Bool) (period : Nat) (r : Filtered) (i : Input) :
    (i.afterSample level period r).slot = i.slot ∧ (i.afterSample level period r).followOn = i.followOn := by
  cases r <;> exact ⟨rfl, rfl⟩

/-- A sample leaves the follow-on behind a slot in flight. -/
theorem Input.afterSample_followOn {level : Bool} {period : Nat} {r : Filtered} {i : Input}
    (h : i.followOn.isSome = true → i.slotInFlight = true) (hf : (i.afterSample level period r).followOn.isSome = true) :
    (i.afterSample level period r).slotInFlight = true := by
  obtain ⟨hslot, hfollow⟩ := i.afterSample_slot level period r
  rw [hfollow] at hf
  obtain ⟨g, hg, hin⟩ := Input.slotInFlight_iff.mp (h hf)
  exact Input.slotInFlight_iff.mpr ⟨g, hslot.trans hg, hin⟩

/-- A sample of an input keeps the list with its owners. -/
theorem RequestsSound.takeSample {s : State} (h : RequestsSound s) (running : s.loader.life = .running) (n : InputId)
    (level : Bool) : RequestsSound (s.takeSample n level) := by
  have hseen : RequestsSound (s.seeLevel n level) := h.congr rfl (fun x hx => ⟨x, hx⟩) rfl
  have hsampled : RequestsSound ((s.seeLevel n level).updateInput n
      (Input.afterSample level s.cfg.inputs[n].period (s.filtered n level))) :=
    hseen.updateInput n _ (congrArg Option.isSome (Input.afterSample_slot level _ _ s.inputs[n]).1)
      (Input.afterSample_followOn (h.followOnInFlight n))
  unfold State.takeSample
  dsimp only
  split
  · split
    · exact hsampled.acceptEdge running n level _
    · exact hsampled
  all_goals exact hsampled

end Sys2Proof.Machine
end

section
/-! PROOF. Every step keeps the transmit list with its owners (R137 to R140, R150 to R153, R170, R173): the ends of the
station's own frames, mute and its end, and the steps. -/

namespace Sys2Proof.Machine

/-! ### The beacon timer starts (R139) -/

/-- The start of the beacon timer completes what RUNNING with access needs. -/
theorem ListSoundBut.startBeacon {s : State} (h : ListSoundBut none s) : RequestsSound s.startBeacon := by
  have hbeacon : s.startBeacon.line.beaconTimer.isSome = true := by
    obtain ⟨l, hb⟩ := s.startBeacon_footprint
    rw [hb]
    rfl
  refine ListSoundBut.sound ?_ hbeacon
  by_cases hmem : Request.beacon ∈ s.line.txList
  · have hstands : s.startBeacon = s.withLine { s.line with beaconTimer := some s.cfg.beaconInterval } :=
      State.join_of_mem hmem
    rw [hstands]
    exact h.change none nofun (fun _ _ _ => ⟨nofun, rfl⟩) h.followOnInFlight (fun x hx => ⟨x, hx⟩) rfl
  · refine ListSoundBut.join (s := s.withLine { s.line with beaconTimer := some s.cfg.beaconInterval }) ?_
      fun hne => absurd rfl hne
    exact h.change (some .beacon) (fun x hx => Option.some.inj hx ▸ hmem) (fun _ _ _ => ⟨nofun, rfl⟩)
      h.followOnInFlight (fun x hx => ⟨x, hx⟩) rfl

/-! ### The head of the list leaves (R150, R151) -/

/-- The head leaves the list, and beacons with it at most. -/
theorem RequestsSound.headLeaves {s : State} (h : RequestsSound s) (access : s.HasAccess)
    (quiet : ∀ x, s.line.episode ≠ .own x) {r : Request} {rest l : List Request} (hlist : s.line.txList = r :: rest)
    (hsub : l.Sublist rest) (hkept : ∀ x ∈ rest, x ≠ .beacon → x ∈ l) :
    ListSoundBut (some r) (s.withLine { s.line with txList := l, attempts := 0 }) := by
  have hnodup := h.nodup
  rw [hlist, List.nodup_cons] at hnodup
  obtain ⟨hhead, hrest⟩ := hnodup
  exact {
    access := ⟨access.running, access.speaks⟩
    nodup := hsub.nodup hrest
    apart := fun x hx hmem => hhead (Option.some.inj hx ▸ hsub.subset hmem)
    attemptsBound := Nat.zero_le 7
    attemptsEmpty := fun _ => rfl
    owed := fun x hx hne => by
      have howed : x ∈ r :: rest ↔ s.owes x = true := by
        rw [← hlist]
        exact (h.listed access).owed x hx nofun
      have hxr : x ≠ r := fun hxr => hne (congrArg some hxr.symm)
      rw [List.mem_cons, or_iff_right hxr] at howed
      exact Iff.trans ⟨fun hmem => hsub.subset hmem, fun hmem => hkept x hmem hx⟩ howed
    followOnInFlight := h.followOnInFlight
    ownTransmission := fun x hx => absurd hx (quiet x) }

/-- The follow-on takes the place of the edge whose request has left (R120 to R122). -/
theorem ListSoundBut.followOnTakes {s : State} {n : InputId} (h : ListSoundBut (some (.edge n)) s)
    (mark : Capture → Capture) : ListSoundBut (some (.edge n)) (s.updateInput n (Input.followOnTakes mark)) :=
  h.change (some (.edge n)) h.apart
    (fun _ _ hne => ⟨hne, s.owes_updateInput n _ fun hx => hne (congrArg some hx.symm)⟩)
    (State.followOn_updateInput h.followOnInFlight nofun) (fun x hx => ⟨x, hx⟩) rfl

/-- Whether the slot is full after the follow-on takes it. -/
theorem State.owes_followOnTakes (s : State) (n : InputId) (mark : Capture → Capture) :
    (s.updateInput n (Input.followOnTakes mark)).owes (.edge n) = s.inputs[n].followOn.isSome := by
  rw [s.owes_updateInput_self, Input.followOnTakes, Option.isSome_map]

/-- The latch empties. -/
theorem ListSoundBut.emptyLatch {s : State} (h : ListSoundBut (some .report) s) : ListSoundBut none s.emptyLatch := by
  refine ListSoundBut.leave (r := .report) ?_ fun _ => rfl
  refine h.change (some .report) h.apart (fun x _ hne => ⟨hne, ?_⟩) h.followOnInFlight (fun x hx => ⟨x, hx⟩) rfl
  cases x with
  | edge n => rfl
  | report => exact absurd rfl hne
  | beacon => rfl

/-- A flag other than ID_CLASH leaves the list. -/
theorem ListSoundBut.setFlag {s : State} {r : Option Request} (h : ListSoundBut r s) (f : Flag) (hf : f ≠ .idClash) :
    ListSoundBut r (s.setFlag f) :=
  h.change r h.apart
    (fun x _ hne => ⟨hne, by cases x <;> rfl⟩) h.followOnInFlight (fun x hx => ⟨x, hx⟩)
    (by rw [State.mute_of_raised (s.setFlag_raised f hf)]; rfl)

/-- The owner of a completed frame and the list agree. -/
theorem ListSoundBut.ownerCompletes {s : State} {r : Request} (h : ListSoundBut (some r) s) :
    ListSoundBut none (s.ownerCompletes r) := by
  cases r with
  | report => exact h.emptyLatch
  | beacon => exact h.leave fun hne => absurd rfl hne
  | edge n =>
    change ListSoundBut none (s.edgeCompletes n)
    have howes := s.owes_followOnTakes n id
    unfold State.edgeCompletes
    dsimp only
    split
    · rename_i hfollow
      exact (h.followOnTakes id).join fun _ => howes.trans hfollow
    · rename_i hfollow
      exact (h.followOnTakes id).leave fun _ => howes.trans (Bool.eq_false_of_not_eq_true hfollow)

/-- The owner of a dropped frame and the list agree. -/
theorem ListSoundBut.ownerDrops {s : State} {r : Request} (h : ListSoundBut (some r) s) :
    ListSoundBut none (s.ownerDrops r) := by
  cases r with
  | report => exact h.emptyLatch
  | beacon => exact h.leave fun hne => absurd rfl hne
  | edge n =>
    change ListSoundBut none (s.edgeDropped n)
    have howes := s.owes_followOnTakes n Capture.overrunning
    unfold State.edgeDropped
    dsimp only
    split
    · rename_i hfollow
      exact ((h.followOnTakes _).setFlag .captureOverrun nofun).join fun _ => howes.trans hfollow
    · rename_i hfollow
      exact (h.followOnTakes _).leave fun _ => howes.trans (Bool.eq_false_of_not_eq_true hfollow)

/-- A completion takes the head off the list (R151). -/
theorem State.headCompletes_of_cons {s : State} {r : Request} {rest : List Request} (hlist : s.line.txList = r :: rest) :
    ∃ l : List Request, l.Sublist rest ∧ (∀ x ∈ rest, x ≠ .beacon → x ∈ l) ∧
      s.headCompletes = (s.withLine { s.line with txList := l, attempts := 0 }).ownerCompletes r := by
  have hpop : s.popHead = s.withLine { s.line with txList := rest, attempts := 0 } := by
    rw [State.popHead, hlist]
    rfl
  have hhead : s.headCompletes = (s.popHead.withdrawBeacon r).ownerCompletes r := by
    rw [State.headCompletes, hlist]
  have hfilter : (rest.filter fun x => !decide (x = Request.beacon)).Sublist rest ∧
      ∀ x ∈ rest, x ≠ .beacon → x ∈ rest.filter fun x => !decide (x = Request.beacon) :=
    ⟨List.filter_sublist, fun x hmem hne => List.mem_filter.mpr ⟨hmem, by simp [hne]⟩⟩
  rw [hhead, hpop]
  cases r with
  | edge n => exact ⟨_, hfilter.1, hfilter.2, rfl⟩
  | report => exact ⟨_, hfilter.1, hfilter.2, rfl⟩
  | beacon => exact ⟨rest, .refl _, fun _ hmem _ => hmem, rfl⟩

/-- A completion leaves the list with its owners. -/
theorem RequestsSound.headCompletes {s : State} (h : RequestsSound s) (access : s.HasAccess)
    (quiet : ∀ x, s.line.episode ≠ .own x) : ListSoundBut none s.headCompletes := by
  cases hlist : s.line.txList with
  | nil =>
    rw [State.headCompletes, hlist]
    exact h.listed access
  | cons r rest =>
    obtain ⟨l, hsub, hkept, hhead⟩ := State.headCompletes_of_cons hlist
    rw [hhead]
    exact (h.headLeaves access quiet hlist hsub hkept).ownerCompletes

/-- One more attempt of the head is counted (R150). -/
theorem RequestsSound.countAttempt {s : State} (h : RequestsSound s) (access : s.HasAccess)
    (hne : s.line.txList ≠ []) (hleft : s.line.attempts < 7) :
    ListSoundBut none (s.withLine { s.line with attempts := s.line.attempts + 1 }) :=
  { h.listed access with
    access := ⟨access.running, access.speaks⟩
    attemptsBound := hleft
    attemptsEmpty := fun hnil => absurd hnil hne }

/-- The owner of a frame that is retried and the list agree. -/
theorem ListSoundBut.ownerRetries {s : State} (h : ListSoundBut none s) (r : Request) :
    ListSoundBut none (s.ownerRetries r) := by
  cases r with
  | report => exact h
  | beacon => exact h
  | edge n =>
    change ListSoundBut none (s.edgeRetried n)
    unfold State.edgeRetried
    split
    · rename_i hfollow
      have hfull : s.inputs[n].slot.isSome = true := by
        obtain ⟨g, hg, -⟩ := Input.slotInFlight_iff.mp (h.followOnInFlight n hfollow)
        rw [hg]
        rfl
      refine ListSoundBut.setFlag (h.change none nofun (fun x _ _ => ⟨nofun, ?_⟩)
        (State.followOn_updateInput (f := Input.followOnTakes Capture.overrunning) h.followOnInFlight nofun)
        (fun x hx => ⟨x, hx⟩) rfl) .captureOverrun nofun
      by_cases hx : x = .edge n
      · rw [hx, s.owes_followOnTakes, hfollow]
        exact hfull.symm
      · exact s.owes_updateInput n _ hx
    · exact h

/-- An abort leaves the list with its owners (R150). -/
theorem RequestsSound.headAborts {s : State} (h : RequestsSound s) (access : s.HasAccess)
    (quiet : ∀ x, s.line.episode ≠ .own x) : ListSoundBut none s.headAborts := by
  unfold State.headAborts
  split
  · exact h.listed access
  rename_i r rest hlist
  split
  · rename_i hleft
    exact (h.countAttempt access (by simp [hlist]) hleft).ownerRetries r
  · have hpop : s.popHead = s.withLine { s.line with txList := rest, attempts := 0 } := by
      rw [State.popHead, hlist]
      rfl
    rw [hpop]
    exact ((h.headLeaves access quiet hlist (.refl _) fun _ hmem _ => hmem).setFlag .txDropped nofun).ownerDrops

/-- A frame end leaves the list with its owners. -/
theorem RequestsSound.frameEnd {s : State} (h : RequestsSound s) : RequestsSound s.frameEnd :=
  h.congr rfl nofun rfl

/-- The station has access to the line while it sends. -/
theorem RequestsSound.access_of_own {s : State} (h : RequestsSound s) {x : Transmission} (hown : s.line.episode = .own x) :
    s.HasAccess := by
  obtain ⟨hlife, hmute, -⟩ := h.ownTransmission x hown
  exact ⟨hlife, hmute⟩

/-- The completion of an own frame keeps the list with its owners (R151). -/
theorem RequestsSound.completeEnd {s : State} (h : RequestsSound s) (access : s.HasAccess) :
    RequestsSound s.completeEnd := by
  have hlist : ListSoundBut none s.frameEnd.headCompletes :=
    h.frameEnd.headCompletes ⟨access.running, access.speaks⟩ nofun
  have hannounced : ListSoundBut none s.completeEnd :=
    hlist.change none nofun (fun _ _ _ => ⟨nofun, rfl⟩) hlist.followOnInFlight (fun x hx => ⟨x, hx⟩) rfl
  exact hannounced.sound rfl

/-- The abort of an own frame keeps the list with its owners (R150). -/
theorem RequestsSound.abortedEnd {s : State} (h : RequestsSound s) (access : s.HasAccess) :
    RequestsSound s.abortedEnd := by
  have hlist : ListSoundBut none s.frameEnd.headAborts :=
    h.frameEnd.headAborts ⟨access.running, access.speaks⟩ nofun
  have hbeacon : s.frameEnd.headAborts.line.beaconTimer.isSome = true := by
    obtain ⟨i, l, a, u, ha⟩ := s.frameEnd.headAborts_footprint
    rw [ha]
    exact h.beaconTimerRuns.mpr ⟨access.running, access.speaks⟩
  exact (hlist.sound hbeacon).congr rfl (fun x hx => ⟨x, hx⟩) rfl

/-! ### Mute and its end (R153, R169, R170) -/

/-- A clash ends what the station has to say (R169, R153). -/
theorem RequestsSound.clashEnd {s : State} (h : RequestsSound s) : RequestsSound s.clashEnd := by
  unfold State.clashEnd
  split
  · exact h.frameEnd.congr rfl (fun x hx => ⟨x, hx⟩) rfl
  · have hmute : (s.frameEnd.enterMute.spokeLast s.cfg.ownId).mute = true := by
      change flagIn (s.faults.flags ||| flagBit .idClash) .idClash = true
      rw [flagIn_or]
      simp
    refine requestsSound_of_no_access (fun access => ?_) rfl rfl rfl h.slot_empty h.followOnInFlight rfl rfl nofun
    rw [access.speaks] at hmute
    cases hmute

/-- The requests of the full slots of some inputs, none of which stands, join in the order of the inputs (R170). -/
theorem State.foldl_joinFull {s : State} (access : s.HasAccess) (l : List InputId) (hnodup : l.Nodup)
    (hnew : ∀ n ∈ l, Request.edge n ∉ s.line.txList) :
    l.foldl (fun t n => if t.inputs[n].slot.isSome then t.join (.edge n) else t) s =
      s.withLine { s.line with
        txList := s.line.txList ++ (l.filter fun n => s.inputs[n].slot.isSome).map Request.edge } := by
  induction l generalizing s with
  | nil => simp [State.withLine]
  | cons n rest ih =>
    obtain ⟨hn, hrest⟩ := List.nodup_cons.mp hnodup
    rw [List.foldl_cons]
    split
    · rename_i hfull
      rw [State.join_of_access access (hnew n (by simp))]
      refine (ih (s := s.withLine { s.line with txList := s.line.txList ++ [.edge n] })
        ⟨access.running, access.speaks⟩ hrest fun m hm => ?_).trans ?_
      · have hmn : m ≠ n := fun hmn => hn (hmn ▸ hm)
        simpa [hmn] using hnew m (by simp [hm])
      · rw [List.filter_cons_of_pos (p := fun n : InputId => s.inputs[n].slot.isSome) hfull]
        simp [State.withLine]
    · rename_i hempty
      rw [ih access hrest fun m hm => hnew m (by simp [hm]), List.filter_cons_of_neg (p := fun n : InputId => s.inputs[n].slot.isSome) hempty]

/-- The inputs whose slot is full, in order. -/
def State.fullSlots (s : State) : List InputId := (List.finRange 4).filter fun n => s.inputs[n].slot.isSome

/-- At the end of mute the requests of the full slots join in the order of the inputs (R170). -/
theorem State.raiseFullSlots_eq {s : State} (access : s.HasAccess)
    (hnew : ∀ n : InputId, Request.edge n ∉ s.line.txList) :
    s.raiseFullSlots = s.withLine { s.line with txList := s.line.txList ++ s.fullSlots.map Request.edge } :=
  State.foldl_joinFull access (List.finRange 4) (List.nodup_finRange 4) fun n _ => hnew n

/-- The end of mute raises what the slots hold and starts the beacon timer (R170, R139). -/
theorem RequestsSound.endMute {s u : State} (h : RequestsSound s) (muted : s.mute = true) (access : u.HasAccess)
    (line : u.line = s.line) (inputs : u.inputs = s.inputs) (latch : u.faults.latch = s.faults.latch) :
    RequestsSound u.endMute := by
  have hnone : ¬s.HasAccess := fun ⟨_, hspeaks⟩ => Bool.noConfusion (muted.symm.trans hspeaks)
  obtain ⟨hlist, hattempts, hlatch, -, -, hown⟩ := h.without_access hnone
  have hraised : u.raiseFullSlots = u.withLine { u.line with txList := u.fullSlots.map Request.edge } := by
    rw [State.raiseFullSlots_eq access (by simp [line, hlist])]
    simp [line, hlist]
  rw [State.endMute, hraised]
  refine ListSoundBut.startBeacon {
    access := ⟨access.running, access.speaks⟩
    nodup := ((List.nodup_finRange 4).filter _).map fun _ _ hmn => Request.edge.inj hmn
    apart := nofun
    attemptsBound := ?_
    attemptsEmpty := fun _ => ?_
    owed := fun x hx _ => ?_
    followOnInFlight := ?_
    ownTransmission := fun x hx => ?_ }
  · change u.line.attempts ≤ 7
    rw [line, hattempts]
    exact Nat.zero_le 7
  · change u.line.attempts = 0
    rw [line, hattempts]
  · change x ∈ u.fullSlots.map Request.edge ↔ u.owes x = true
    cases x with
    | edge n => simp [State.fullSlots, State.owes]
    | report => simp [State.owes, latch, hlatch]
    | beacon => exact absurd rfl hx
  · change ∀ n : InputId, u.inputs[n].followOn.isSome = true → u.inputs[n].slotInFlight = true
    rw [inputs]
    exact h.followOnInFlight
  · rw [State.withLine_line, line] at hx
    exact absurd hx (hown x)

/-- A CLEAR keeps the list with its owners (R168, R170). -/
theorem RequestsSound.takeClear {s : State} (h : RequestsSound s) (running : s.loader.life = .running) (f : Frame) :
    RequestsSound (s.takeClear f) := by
  have hmute : ∀ named : BitVec 13, (s.clearFlags named).mute = (s.mute && !flagIn named .idClash) :=
    fun named => flagIn_and_not s.faults.flags named .idClash
  unfold State.takeClear
  split
  · exact h.of_raised (s.reject_raised .malformed) rfl rfl rfl
  dsimp only
  split
  · rename_i hboth
    obtain ⟨hmuted, hnamed⟩ := Bool.and_eq_true_iff.mp hboth
    exact h.endMute hmuted ⟨running, by rw [hmute, hmuted, hnamed]; rfl⟩ rfl rfl rfl
  · rename_i hboth
    have hsame : (s.clearFlags ((field16 f.payload 0).setWidth 13)).mute = s.mute := by
      rw [hmute]
      cases hm : s.mute
      · rfl
      · cases hn : flagIn ((field16 f.payload 0).setWidth 13) .idClash
        · rfl
        · exact absurd (by rw [hm, hn]; rfl) hboth
    exact h.congr rfl (fun x hx => ⟨x, hx⟩) (by rw [hsame]; rfl)

/-! ### A snapshot is latched (R171, R173) -/

/-- A PROBE keeps the list with its owners. -/
theorem RequestsSound.takeProbe {s : State} (h : RequestsSound s) (running : s.loader.life = .running) (f : Frame) :
    RequestsSound (s.takeProbe f) := by
  unfold State.takeProbe
  split
  · exact h
  rename_i hc
  simp only [not_or, Bool.not_eq_true, Option.isSome_eq_false_iff, Option.isNone_iff_eq_none] at hc
  obtain ⟨-, -, hspeaks, hlatch⟩ := hc
  split
  · exact h
  rename_i sel _
  obtain ⟨p, hp⟩ := s.served_footprint sel
  have hnew : Request.report ∉ s.line.txList := fun hmem => by
    have hfull := h.reportIffLatch.mp hmem
    rw [hlatch] at hfull
    cases hfull
  unfold State.acceptProbe
  rw [hp]
  generalize hm : s.snapshot f sel = m
  have hlist : ListSoundBut (some .report) ((s.withPeers p).withFaults { s.faults with latch := some m }) := by
    refine (h.listed ⟨running, hspeaks⟩).change (some .report) (fun x hx => Option.some.inj hx ▸ hnew)
      (fun x _ hne => ⟨nofun, ?_⟩) h.followOnInFlight (fun x hx => ⟨x, hx⟩) rfl
    cases x with
    | edge n => rfl
    | report => exact absurd rfl hne
    | beacon => rfl
  refine (hlist.join fun _ => rfl).sound ?_
  rw [State.join_of_access hlist.access hnew]
  exact h.beaconTimerRuns.mpr ⟨running, hspeaks⟩

/-! ### The steps -/

/-- After a reset nothing stands and no slot is full (R126, R177). -/
theorem requestsSound_of_reset {t : State} (life : t.loader.life ≠ .running) (line : t.line = Line.atReset)
    (inputs : t.inputs = Vector.replicate 4 Input.atReset) (latch : t.faults.latch = none) : RequestsSound t := by
  have hinput : ∀ n : InputId, t.inputs[n] = Input.atReset := fun n => by
    rw [inputs]
    exact getElem_replicate_fin Input.atReset n
  refine requestsSound_of_no_access (fun access => life access.running) (by rw [line]; rfl) (by rw [line]; rfl) latch
    (fun _ n => by rw [hinput n]; rfl) (fun n hf => ?_) (by rw [line]; rfl) (by rw [line]; rfl) (by rw [line]; exact nofun)
  rw [hinput n] at hf
  cases hf

/-- Outside RUNNING before and after. -/
theorem RequestsSound.of_not_running {s t : State} (h : RequestsSound s) (hs : s.loader.life ≠ .running)
    (ht : t.loader.life ≠ .running) (inputs : t.inputs = s.inputs) (own : ∀ x, t.line.episode = .own x →
      s.line.episode = .own x)
    (same : (t.line.txList, t.line.attempts, t.line.beaconTimer, t.line.announcedTimer, t.faults.latch) =
      (s.line.txList, s.line.attempts, s.line.beaconTimer, s.line.announcedTimer, s.faults.latch)) :
    RequestsSound t := by
  simp only [Prod.mk.injEq] at same
  obtain ⟨txList, attempts, beacon, announced, latch⟩ := same
  obtain ⟨hlist, hattempts, hlatch, hbeacon, hannounced, hown⟩ := h.without_access fun access => hs access.running
  exact requestsSound_of_no_access (fun access => ht access.running) (txList.trans hlist) (attempts.trans hattempts)
    (latch.trans hlatch) (fun _ n => by rw [inputs]; exact h.slot_empty hs n)
    (by rw [inputs]; exact h.followOnInFlight) (beacon.trans hbeacon) (announced.trans hannounced)
    fun x hx => hown x (own x hx)

/-- Entry to RUNNING keeps the list with its owners (R182, R139). -/
theorem RequestsSound.enterRunning {s : State} (h : RequestsSound s) (hlife : s.loader.life = .joining)
    (levels : BitVec 4) : RequestsSound (s.enterRunning levels) := by
  have hnot : s.loader.life ≠ .running := by simp [hlife]
  obtain ⟨hlist, hattempts, hlatch, hbeacon, hannounced, hown⟩ := h.without_access fun access => hnot access.running
  unfold State.enterRunning
  dsimp only
  generalize hu : State.firstSamples levels ((s.withLoader
    { s.loader with life := .running, joinLeft := none }).withTimebase { s.timebase with sync := .synced }) = u
  have hline : u.line = s.line := by rw [← hu]; rfl
  have hfaults : u.faults = s.faults := by rw [← hu]; rfl
  have hlife : u.loader.life = .running := by rw [← hu]; rfl
  have hslots : ∀ n : InputId, u.inputs[n].slot = s.inputs[n].slot ∧ u.inputs[n].followOn = s.inputs[n].followOn :=
    fun n => by
      have hn : u.inputs[n] = s.inputs[n].afterSample (levels.getLsbD n.val) s.cfg.inputs[n].period .first := by
        rw [← hu]
        exact mapFamily_getElem _ _ n
      rw [hn]
      exact Input.afterSample_slot _ _ _ _
  have hfollow : ∀ n : InputId, u.inputs[n].followOn.isSome = true → u.inputs[n].slotInFlight = true := fun n hf => by
    rw [(hslots n).2, (h.slotOnlyRunning hnot n).2] at hf
    cases hf
  split
  · rename_i hmute
    refine requestsSound_of_no_access (fun access => ?_) (by rw [hline]; exact hlist) (by rw [hline]; exact hattempts)
      (by rw [hfaults]; exact hlatch) (fun hne => absurd hlife hne) hfollow (by rw [hline]; exact hbeacon)
      (by rw [hline]; exact hannounced) (by rw [hline]; exact hown)
    rw [access.speaks] at hmute
    cases hmute
  · rename_i hmute
    refine ListSoundBut.startBeacon {
      access := ⟨hlife, Bool.eq_false_of_not_eq_true hmute⟩
      nodup := by rw [hline, hlist]; exact List.nodup_nil
      apart := nofun
      attemptsBound := by rw [hline, hattempts]; exact Nat.zero_le 7
      attemptsEmpty := fun _ => by rw [hline, hattempts]
      owed := fun x hx _ => ?_
      followOnInFlight := hfollow
      ownTransmission := fun x hx => absurd (hline ▸ hx) (hown x) }
    rw [hline, hlist]
    cases x with
    | edge n =>
      change _ ↔ u.inputs[n].slot.isSome = true
      rw [(hslots n).1, h.slot_empty hnot n]
      simp
    | report =>
      change _ ↔ u.faults.latch.isSome = true
      rw [hfaults, hlatch]
      simp
    | beacon => exact absurd rfl hx

/-- The start of an own frame keeps the list with its owners (R148, R149). -/
theorem RequestsSound.slotStarts {s : State} (h : RequestsSound s) : RequestsSound s.slotStarts := by
  rcases s.slotStarts_cases with hsame | ⟨r, rest, bytes, hlife, hmute, hlist, -, hstart⟩
  · rw [hsame]
    exact h
  rw [hstart]
  have hstarted : RequestsSound (s.carrierOn.withLine
      { s.line with episode := .own ⟨bytes, true, s.cfg.frameTicks bytes⟩, round := none }) :=
    { h with ownTransmission := fun _ _ => ⟨hlife, hmute, by simp [hlist]⟩ }
  cases r with
  | report => exact hstarted
  | beacon => exact hstarted
  | edge n =>
    refine hstarted.updateInput n (fun i => { i with slot := i.slot.map fun g => { g with inFlight := true } })
      Option.isSome_map fun hf => ?_
    obtain ⟨g, hg, -⟩ := Input.slotInFlight_iff.mp (h.followOnInFlight n hf)
    exact Input.slotInFlight_iff.mpr ⟨{ g with inFlight := true }, congrArg (Option.map _) hg, rfl⟩

/-- The count of the timers keeps the list with its owners. -/
theorem RequestsSound.countDown {s : State} (h : RequestsSound s) : RequestsSound s.countDown := by
  refine h.of_slots (fun n => ?_) (fun n => ?_) (fun x hx => ?_) ?_
  · rw [s.countDown_input]
    rfl
  · rw [s.countDown_input]
    exact h.followOnInFlight n
  · rw [s.countDown_line] at hx
    exact Episode.own_of_tick hx
  · rw [State.mute, State.mute, s.countDown_line, s.countDown_faults, s.countDown_loader]
    simp only [Line.tick, tickTimer_isSome]
    rfl

/-- Every shared operation keeps the list with its owners. -/
theorem kept_requestsSound : Kept RequestsSound where
  pending _ _ h := h.congr rfl (fun x hx => ⟨x, hx⟩) rfl
  choice _ _ h := h.congr rfl (fun x hx => ⟨x, hx⟩) rfl
  hardReset _ _ := requestsSound_of_reset nofun rfl rfl rfl
  restart _ _ _ := requestsSound_of_reset nofun rfl rfl rfl
  startRead _ h _ := h.congr rfl (fun x hx => ⟨x, hx⟩) rfl
  readBad _ _ h hlife _ _ := h.of_not_running (by simp [hlife]) nofun rfl (fun _ hx => hx) rfl
  readGood s b h hlife _ _ := by
    refine h.of_not_running (by simp [hlife]) nofun (State.endRead_enterJoining_inputs b s) (fun x hx => ?_) ?_
    · rw [State.endRead_enterJoining_episode] at hx
      split at hx <;> cases hx
    · rw [State.endRead_enterJoining_txList, State.endRead_enterJoining_attempts,
        State.endRead_enterJoining_beaconTimer, State.endRead_enterJoining_announcedTimer,
        State.endRead_enterJoining_latch]
  enterRunning _ levels h hlife _ := h.enterRunning hlife levels
  carrierJoins _ h _ := h.congr rfl (fun x hx => ⟨x, hx⟩) rfl
  carrierBegins _ h _ _ := h.congr rfl nofun rfl
  delimiter _ _ h _ := h.congr rfl nofun rfl
  fragment _ h _ := h.congr rfl nofun rfl
  mismatch _ x h hown := h.congr rfl (fun _ _ => ⟨x, hown⟩) rfl
  fixOrder _ h _ := h.congr rfl (fun x hx => ⟨x, hx⟩) rfl
  nextRound _ h _ := h.congr rfl (fun x hx => ⟨x, hx⟩) rfl
  slotStarts _ h := h.slotStarts
  complete _ _ h hown _ _ := h.completeEnd (h.access_of_own hown)
  aborted _ _ h hown _ := h.abortedEnd (h.access_of_own hown)
  quietLine _ h _ := h.congr rfl (fun x hx => ⟨x, hx⟩) rfl
  badEnd _ h _ := (h.frameEnd.setFlag (f := .lineError) nofun).congr rfl (fun x hx => ⟨x, hx⟩) rfl
  frameEnd _ h _ := h.frameEnd
  clashEnd _ h _ := h.clashEnd
  stages s f a h _ _ _ _ := by
    have hraised := s.takeLead_raised (s.frameLead f a)
    obtain ⟨t, k, q, v, u, hl⟩ := s.takeLead_footprint (s.frameLead f a)
    rw [State.stages]
    rw [hl] at hraised ⊢
    exact (h.of_raised hraised (by simp) (by simp) (by simp)).congr rfl (fun x hx => ⟨x, hx⟩) rfl
  beacon s f h _ _ _ := by
    unfold State.takeBeacon
    split <;> exact h.congr rfl (fun x hx => ⟨x, hx⟩) rfl
  edge s f h _ := by
    have hraised := s.takeEdgeReport_raised f
    obtain ⟨q, v, u, ht⟩ := s.takeEdgeReport_footprint f
    rw [ht] at hraised ⊢
    exact h.of_raised hraised (by simp) (by simp) (by simp)
  schedule s f h _ := by
    have hraised := s.takeSchedule_raised f
    obtain ⟨q, v, u, ht⟩ := s.takeSchedule_footprint f
    rw [ht] at hraised ⊢
    exact h.of_raised hraised (by simp) (by simp) (by simp)
  stage s f h _ := by
    have hraised := s.takeStage_raised f
    obtain ⟨g, u, ht⟩ := s.takeStage_footprint f
    rw [ht] at hraised ⊢
    exact h.of_raised hraised (by simp) (by simp) (by simp)
  release s f h _ := by
    have hraised := s.takeRelease_raised f
    obtain ⟨g, q, v, u, ht⟩ := s.takeRelease_footprint f
    rw [ht] at hraised ⊢
    exact h.of_raised hraised (by simp) (by simp) (by simp)
  scopeLeft _ _ h := h.congr rfl (fun x hx => ⟨x, hx⟩) rfl
  cancelScope s l h := by
    obtain ⟨q, v, hc⟩ := s.cancelScope_footprint l
    rw [hc]
    exact h.congr rfl (fun x hx => ⟨x, hx⟩) rfl
  cancelStaged _ _ _ _ h _ := h.congr rfl (fun x hx => ⟨x, hx⟩) rfl
  rejectCancel s h _ := h.of_raised (s.reject_raised .malformed) rfl rfl rfl
  probe _ f h hrunning := h.takeProbe hrunning f
  clear _ f h hrunning := h.takeClear hrunning f
  sample _ n level h hrunning := h.takeSample hrunning n level
  busTick s h _ := by
    have hraised := s.busTick_raised
    obtain ⟨v, u, hb⟩ := s.busTick_footprint
    rw [hb] at hraised ⊢
    exact h.of_raised hraised (by simp) (by simp) (by simp)
  onEnds _ _ h _ := h.congr rfl (fun x hx => ⟨x, hx⟩) rfl
  offEnds _ _ h _ := h.congr rfl (fun x hx => ⟨x, hx⟩) rfl
  recoverEnds _ _ h _ := h.congr rfl (fun x hx => ⟨x, hx⟩) rfl
  beaconTimer s h hbeacon := by
    obtain ⟨hlife, hmute⟩ := h.beaconTimerRuns.mp (by rw [hbeacon]; rfl)
    exact (h.listed ⟨hlife, hmute⟩).startBeacon
  announcedTimer _ h _ := { h with announcedRuns := nofun }
  silence _ _ h _ := h.congr rfl (fun x hx => ⟨x, hx⟩) rfl
  candidate s _ h _ := by
    have hgone : RequestsSound (s.withTimebase { s.timebase with candidate := none }) :=
      h.congr rfl (fun x hx => ⟨x, hx⟩) rfl
    exact hgone.setFlag nofun
  lapse s c _ h _ := by
    have hgone : RequestsSound (s.withStaging (s.staging.set c none)) := h.congr rfl (fun x hx => ⟨x, hx⟩) rfl
    exact hgone.setFlag nofun
  countDown _ h _ := h.countDown
  advance _ h _ := h.congr rfl (fun x hx => ⟨x, hx⟩) rfl

/-! ### The obligation -/

/-- Settles O55: what joins the list is owed by its owner, what leaves it is owed no more, and without access nothing
stands in it. -/
theorem stepsKeepTheRequests : Obligations.StepsKeepTheRequests :=
  fun s t h hstep => kept_requestsSound.step s t h hstep

end Sys2Proof.Machine
end

section
/-! PROOF. What the frame ends, the reset, the start of a frame and the timers do, stated once for every state. -/

namespace Sys2Proof.Machine

/-! ### Frame ends (R22, R25 to R30) -/

/-- The payload of a frame that is handed on goes to its owner, after the stages of the arrival (R28 to R30). -/
theorem State.receive_of_handedOn {s : State} {f : Frame} {a : BusTime} (handed : Frame → State → State)
    (h : HandedOn f a s) : s.receive f handed = handed f (s.arrived f a) := by
  have hrunning : (s.arrived f a).isRunning = true := by
    have hloader : (s.arrived f a).loader = s.frameEnd.loader := State.stages_loader f _ s.frameEnd
    rw [State.isRunning, hloader, show s.frameEnd.loader = s.loader from rfl, h.running]
    rfl
  have hmeant : (s.arrived f a).matchesDest f = true := by
    rw [State.matchesDest_congr f (s.arrived_cfg f a)]
    exact h.meant
  rw [State.receive_of_arrives handed h.toArrives, State.handOn, hrunning, hmeant]
  rfl

/-- An episode without its delimiter is bad, whatever is judged of it (R25). -/
theorem State.lineFrameEnd_of_undelimited {s : State} (judged : BusTime → State → State) (hactive : s.active = true)
    (hepisode : (∃ n, s.line.episode = .searching n) ∨ s.line.episode = .fragment) :
    s.lineFrameEnd judged = s.badEnd := by
  rcases hepisode with ⟨n, hsearching⟩ | hfragment
  · simp [State.lineFrameEnd, hactive, hsearching]
  · simp [State.lineFrameEnd, hactive, hfragment]

/-- An episode in progress at entry to JOINING is not judged (R22). -/
theorem State.lineFrameEnd_of_unjudged {s : State} (judged : BusTime → State → State) (hactive : s.active = true)
    (hepisode : s.line.episode = .unjudged) : s.lineFrameEnd judged = s.frameEnd := by
  simp [State.lineFrameEnd, hactive, hepisode]

/-- A station that transmits receives no frame, and a quiet line ends none. -/
theorem State.lineFrameEnd_of_none {s : State} (judged : BusTime → State → State) (hactive : s.active = true)
    (hepisode : (∃ x, s.line.episode = .own x) ∨ s.line.episode = .quiet) : s.lineFrameEnd judged = s := by
  rcases hepisode with ⟨x, hown⟩ | hquiet
  · simp [State.lineFrameEnd, hactive, hown]
  · simp [State.lineFrameEnd, hactive, hquiet]

/-- With the receiver inactive the line falls quiet and nothing else (R22). -/
theorem State.lineFrameEnd_of_inactive {s : State} (judged : BusTime → State → State) (hactive : s.active = false) :
    s.lineFrameEnd judged = s.quietLine := by
  simp [State.lineFrameEnd, hactive]

/-- The commands that judge the end of an episode are frame ends (R25 to R30). -/
theorem exec_frame_end {c : Instr}
    (h : c = .badEpisode ∨ c = .foreignFrame ∨ c = .clash ∨ (frameOf c).isSome = true) :
    ∃ judged : BusTime → State → State, ∀ s : State, exec c s = .next (s.lineFrameEnd judged) := by
  rcases h with rfl | rfl | rfl | hframe
  · exact ⟨_, fun _ => rfl⟩
  · exact ⟨_, fun _ => rfl⟩
  · exact ⟨_, fun _ => rfl⟩
  · obtain ⟨⟨k, f⟩, hframe⟩ := Option.isSome_iff_exists.mp hframe
    obtain ⟨handed, hexec⟩ := exec_frame_receives hframe
    exact ⟨State.goodFrame f handed, hexec⟩

/-! ### The reset (R126, R177, R183) -/

/-- A reset ends the carrier of the station's own frame (R183). -/
theorem State.outsideAfterReset_of_own {s : State} {x : Transmission} (h : s.line.episode = .own x) :
    s.outsideAfterReset = { s.ext with carrier := false } := by
  simp [State.outsideAfterReset, h]

/-- A reset leaves what stands outside when the station sends nothing. -/
theorem State.outsideAfterReset_of_not_own {s : State} (h : ∀ x, s.line.episode ≠ .own x) :
    s.outsideAfterReset = s.ext := by
  unfold State.outsideAfterReset
  cases he : s.line.episode with
  | own x => exact absurd he (h x)
  | _ => rfl

/-- No output is driven while the station is inactive (R70). -/
theorem State.tout_of_inactive {s : State} (h : s.active = false) (c : ChannelId) : s.tout c = none := by
  simp [State.tout, State.outputsDriven, h]

/-- At reset the fault line is released (R166). -/
theorem State.faultLine_reset : State.reset.faultLine = false := by decide

/-- Settles O6: the reset is the reset state around what is not the station's, and the release starts the read. -/
theorem resetHoldsUntilItsRelease : Obligations.ResetHoldsUntilItsRelease := by
  refine ⟨fun s => ⟨s.hardReset, rfl, rfl, rfl, rfl, rfl, rfl, rfl, rfl, rfl, rfl, rfl, rfl, rfl, rfl, rfl, rfl,
    getElem_replicate_fin Peer.atReset, getElem_replicate_fin Input.atReset, getElem_replicate_fin none, rfl,
    getElem_replicate_fin none, getElem_replicate_fin Channel.atReset, rfl, fun c => State.tout_of_inactive rfl c, rfl,
    rfl, State.faultLine_reset, rfl, rfl, rfl, rfl, fun x hown => State.outsideAfterReset_of_own hown,
    State.outsideAfterReset_of_not_own⟩, fun s => ⟨fun hheld => ?_, fun hheld => ?_⟩, fun s hheld => ?_⟩
  · change Host.Outcome.next (if s.loader.held then s.startRead else s) = _
    rw [if_pos hheld]
    rfl
  · change Host.Outcome.next (if s.loader.held then s.startRead else s) = _
    rw [if_neg (by simp [hheld])]
  · change Host.Outcome.next (if s.loader.held then s else s.busTick.finishCancel) = _
    rw [if_pos hheld]

/-- Settles O52: a station at reset is empty, inactive and at rest. -/
theorem resetMeetsEveryInvariant : Obligations.ResetMeetsEveryInvariant :=
  ⟨lifeConduct_reset, readSound_of_idle rfl rfl, queueSound_of_empty rfl,
    requestsSound_of_reset nofun rfl rfl rfl, channelsSound_reset, roundsSound_reset,
    peersSound_of_inactive rfl rfl rfl (getElem_replicate_fin Peer.atReset),
    stagingSound_of_empty (getElem_replicate_fin none), disabledChannelsRest_reset⟩

/-! ### Entry to RUNNING (R182) and the timers (R15, R106, R139, R158) -/

/-- The request that joins at the start of the beacon timer (R139). -/
theorem State.startBeacon_of_access {s : State} (access : s.HasAccess) :
    s.startBeacon = s.withLine { s.line with
      beaconTimer := some s.cfg.beaconInterval
      txList := if .beacon ∈ s.line.txList then s.line.txList else s.line.txList ++ [.beacon] } := by
  unfold State.startBeacon
  split
  · rename_i hmem
    exact State.join_of_mem hmem
  · rename_i hnew
    exact State.join_of_access ⟨access.running, access.speaks⟩ hnew

/-- The first samples of the inputs set their levels and start their sample timers (R113). -/
theorem State.firstSamples_input (levels : BitVec 4) (s : State) (n : InputId) :
    (s.firstSamples levels).inputs[n] = { s.inputs[n] with
      stable := some (levels.getLsbD n.val), run := none, sampleTimer := some s.cfg.inputs[n].period } :=
  mapFamily_getElem _ _ n

/-- The levels at the inputs at the first samples. -/
theorem State.firstSamples_tin (levels : BitVec 4) (s : State) (n : InputId) :
    (s.firstSamples levels).ext.tin[n] = levels.getLsbD n.val := by
  simp [State.firstSamples]

/-- The RUNNING station before its beacon timer starts (R182). -/
def State.sampledRunning (levels : BitVec 4) (s : State) : State :=
  ((s.withLoader { s.loader with life := .running, joinLeft := none }).withTimebase
    { s.timebase with sync := .synced }).firstSamples levels

/-- Entry to RUNNING starts the beacon timer unless the station is mute (R182, R153). -/
theorem State.enterRunning_eq (levels : BitVec 4) (s : State) : s.enterRunning levels =
    if s.mute then s.sampledRunning levels else (s.sampledRunning levels).startBeacon := rfl

/-- Entry to RUNNING starts the beacon timer of a station that may speak. -/
theorem State.enterRunning_of_speaks {s : State} (levels : BitVec 4) (hmute : s.mute = false) :
    s.enterRunning levels = (s.sampledRunning levels).withLine { s.line with
      beaconTimer := some s.cfg.beaconInterval
      txList := if .beacon ∈ s.line.txList then s.line.txList else s.line.txList ++ [.beacon] } := by
  rw [State.enterRunning_eq, hmute]
  exact State.startBeacon_of_access (s := s.sampledRunning levels) ⟨rfl, hmute⟩

/-- Entry to RUNNING changes the line at most beyond the first samples. -/
theorem State.enterRunning_line (levels : BitVec 4) (s : State) :
    ∃ l, s.enterRunning levels = (s.sampledRunning levels).withLine l := by
  cases hmute : s.mute
  case true => exact ⟨s.line, by rw [State.enterRunning_eq, hmute]; rfl⟩
  case false => exact ⟨_, State.enterRunning_of_speaks levels hmute⟩

/-- Settles O10: at the end of the window the station samples its inputs and, unless it is mute, starts its beacon
timer; at no other time the command does anything. -/
theorem joinWindowEndEntersRunning : Obligations.JoinWindowEndEntersRunning := by
  intro levels s
  have hexec : exec (.joinWindowEnd levels) s = .next (if decide (s.loader.life = .joining) &&
      expired s.loader.joinLeft then s.enterRunning levels else s) := rfl
  refine ⟨fun hlife hleft => ⟨s.enterRunning levels, ?_, ?_⟩, fun hnot => ?_⟩
  · rw [hexec, if_pos (by simp [hlife, hleft, expired])]
  · obtain ⟨l, hrest⟩ := s.enterRunning_line levels
    refine ⟨by rw [hrest]; rfl, by rw [hrest]; rfl, by rw [hrest]; rfl, fun n => ?_, fun n => ?_, by rw [hrest]; rfl,
      by rw [hrest]; rfl, fun hmute => ?_, fun hmute => ?_, by rw [hrest]; rfl, by rw [hrest]; rfl,
      by rw [hrest]; rfl, by rw [hrest]; rfl, by rw [hrest]; rfl, by rw [hrest]; rfl, by rw [hrest]; rfl,
      by rw [hrest]; rfl⟩
    · rw [hrest]
      exact State.firstSamples_input levels _ n
    · rw [hrest]
      exact State.firstSamples_tin levels _ n
    · rw [State.enterRunning_eq, hmute]
      rfl
    · rw [State.enterRunning_of_speaks levels hmute]
      rfl
  · rw [hexec, if_neg (by simpa [expired] using hnot)]

/-- Settles O48: each timer's command acts exactly when its timer stands at zero. -/
theorem timersExpireAtZero : Obligations.TimersExpireAtZero := by
  refine ⟨fun x s => ⟨fun hleft hlife hmute => ?_, fun hne => ?_, fun hleft => ?_, fun hne => ?_, fun hleft => ?_,
    fun hne => ?_⟩, fun c s => ⟨fun l hleft => ?_, fun hne => ?_, fun g hg hleft => ?_, fun hne => ?_⟩⟩
  · change Host.Outcome.next (if expired s.line.beaconTimer then s.startBeacon else s) = _
    rw [if_pos (by simp [expired, hleft]), State.startBeacon_of_access ⟨hlife, hmute⟩]
    rfl
  · exact congrArg Host.Outcome.next (if_neg (by simpa [expired] using hne))
  · change Host.Outcome.next (if expired s.line.announcedTimer then _ else s) = _
    rw [if_pos (by simp [expired, hleft])]
    rfl
  · exact congrArg Host.Outcome.next (if_neg (by simpa [expired] using hne))
  · change Host.Outcome.next (if s.peers[x].silenceExpired then s.updatePeer x Peer.fallSilent else s) = _
    rw [if_pos (by rw [Peer.silenceExpired, hleft]; rfl)]
    rfl
  · exact congrArg Host.Outcome.next (if_neg (by simpa [Peer.silenceExpired] using hne))
  · change Host.Outcome.next (if candidateExpired s.timebase.candidate then s.candidateExpires else s) = _
    rw [if_pos (by rw [hleft]; rfl)]
    rfl
  · refine congrArg Host.Outcome.next (if_neg fun hexpired => ?_)
    unfold candidateExpired at hexpired
    split at hexpired
    · cases hexpired
    · rename_i k hk
      exact hne k.lead (hk.trans (by rw [← of_decide_eq_true hexpired]))
  · change Host.Outcome.next (if lifetimeOver s.staging[c] then s.lapse c else s) = _
    rw [if_pos (by rw [hg]; exact decide_eq_true hleft)]
    rfl
  · refine congrArg Host.Outcome.next (if_neg fun hover => ?_)
    unfold lifetimeOver at hover
    split at hover
    · cases hover
    · rename_i g hg
      exact hne g hg (of_decide_eq_true hover)

/-! ### The line (R20 to R25, R150) -/

/-- Settles O11: carrier on a quiet line begins the search, and only a search finds a delimiter or ends in vain. -/
theorem carrierBeginsTheSearch : Obligations.CarrierBeginsTheSearch := by
  refine ⟨fun s => ⟨fun hactive hquiet => ?_, fun hnot => ?_⟩, fun s => ⟨fun n hsearch => ?_, fun hnot => ?_,
    fun hzero => ?_, fun hnot => ?_⟩⟩
  · change Host.Outcome.next (if s.active && decide (s.line.episode = .quiet) then _ else s.carrierOn) = _
    rw [if_pos (by simp [hactive, hquiet])]
    rfl
  · change Host.Outcome.next (if s.active && decide (s.line.episode = .quiet) then _ else s.carrierOn) = _
    rw [if_neg (by rcases hnot with hin | hne <;> simp [*])]
    rfl
  · simp [exec, execDelimiterFound, hsearch, State.withLine]
  · cases he : s.line.episode with
    | searching n => exact absurd he (hnot n)
    | _ => simp [exec, execDelimiterFound, he]
  · simp [exec, execDelimiterSearchEnded, hzero, State.withLine]
  · cases he : s.line.episode with
    | searching n =>
      have hn : n ≠ 0 := fun hn => hnot (by rw [he, hn])
      simp [exec, execDelimiterSearchEnded, he, hn]
    | _ => simp [exec, execDelimiterSearchEnded, he]

/-- Settles O16: the episode of the own frame goes on without driving the line. -/
theorem mismatchStopsDriving : Obligations.MismatchStopsDriving := by
  refine fun s => ⟨fun x hown => ⟨_, ?_, rfl, rfl, rfl⟩, fun hnot => ?_⟩
  · simp [exec, execReadbackMismatch, hown, State.withLine]
  · cases he : s.line.episode with
    | own x => exact absurd he (hnot x)
    | _ => simp [exec, execReadbackMismatch, he]

/-- Settles O19: the bad end of an episode, which a judged one has at BAD_EPISODE and one without delimiter always. -/
theorem badEpisodeOpensTheRound : Obligations.BadEpisodeOpensTheRound := by
  refine fun s c hactive => ⟨fun ⟨a, hcaptured⟩ => ?_, fun hepisode hc => ?_⟩
  · change Host.Outcome.next (s.lineFrameEnd fun _ t => t.badEnd) = _
    rw [State.lineFrameEnd_of_captured _ hactive hcaptured]
    rfl
  · obtain ⟨judged, hexec⟩ := exec_frame_end hc
    rw [hexec, State.lineFrameEnd_of_undelimited judged hactive hepisode]
    rfl

/-- Settles O21: a frame that carries the station's own identifier is a clash, and a clash enters mute once. -/
theorem clashEntersMute : Obligations.ClashEntersMute := by
  intro s a c hactive hcaptured hc ext line
  have hclash : exec c s = .next s.clashEnd := by
    rcases hc with rfl | ⟨k, f, hframe, hown, hring⟩
    · exact congrArg Host.Outcome.next (State.lineFrameEnd_of_captured _ hactive hcaptured)
    · obtain ⟨handed, hexec⟩ := exec_frame_receives hframe
      rw [hexec, State.receive, State.lineFrameEnd_of_captured _ hactive hcaptured, State.goodFrame,
        if_neg (Nat.not_le.mpr hring), if_pos hown]
  rw [hclash, State.clashEnd]
  refine ⟨fun hmute => ⟨_, rfl, ?_, ?_⟩, fun hmute => ?_⟩
  · rw [if_neg (by simp [hmute])]
    rfl
  · rw [if_neg (by simp [hmute])]
    change flagIn (s.faults.flags ||| flagBit .idClash) .idClash = true
    rw [flagIn_or]
    simp
  · rw [if_pos hmute]
    rfl

/-- Settles O22: the frame end by what the receiver is doing. -/
theorem unreceivedEpisodesAreNotJudged : Obligations.UnreceivedEpisodesAreNotJudged := by
  refine ⟨fun s c hactive hepisode hc => ?_, fun s c hactive hepisode hc => ?_, fun s c hactive hc => ?_⟩
  · rcases hc with rfl | hc
    · change Host.Outcome.next (if s.active then if s.line.episode = .unjudged then s.frameEnd else s else _) = _
      rw [if_pos hactive, if_pos hepisode]
      rfl
    · obtain ⟨judged, hexec⟩ := exec_frame_end hc
      rw [hexec, State.lineFrameEnd_of_unjudged judged hactive hepisode]
      rfl
  · rcases hc with rfl | hc
    · change Host.Outcome.next (if s.active then if s.line.episode = .unjudged then s.frameEnd else s else _) = _
      rw [if_pos hactive, if_neg]
      rcases hepisode with ⟨x, hown⟩ | hquiet
      · rw [hown]
        nofun
      · rw [hquiet]
        nofun
    · obtain ⟨judged, hexec⟩ := exec_frame_end hc
      rw [hexec, State.lineFrameEnd_of_none judged hactive hepisode]
  · rcases hc with rfl | hc
    · change Host.Outcome.next (if s.active then _ else s.quietLine) = _
      rw [if_neg (by simp [hactive])]
      rfl
    · obtain ⟨judged, hexec⟩ := exec_frame_end hc
      rw [hexec, State.lineFrameEnd_of_inactive judged hactive]
      rfl

/-! ### Payloads (R31, R161, R184) -/

/-- Settles O28: a BEACON payload of four bytes is recorded in the sender's entry. -/
theorem beaconRecordsTheSummary : Obligations.BeaconRecordsTheSummary := by
  intro f a s h
  have hexec : exec (.beacon f) s = .next ((s.arrived f a).takeBeacon f) :=
    congrArg Host.Outcome.next (State.receive_of_handedOn State.takeBeacon h)
  rw [hexec]
  refine ⟨fun hlength => ?_, fun hlength => ?_⟩
  · rw [State.takeBeacon, if_neg (by simp [hlength])]
    rfl
  · rw [State.takeBeacon, if_pos hlength]

/-- Settles O39: a RESTART is a reset that keeps the flags but ID_CLASH, the mask and the reason, and starts the read. -/
theorem restartKeepsTheFlags : Obligations.RestartKeepsTheFlags := by
  intro f a s h u
  have hexec : exec (.restart f) s = .next (u.takeRestart f) :=
    congrArg Host.Outcome.next (State.receive_of_handedOn State.takeRestart h)
  rw [hexec, State.takeRestart]
  refine ⟨fun hmode hlength => ⟨u.hardReset, rfl, ?_⟩, fun hnot => ?_⟩
  · rw [if_pos ⟨hmode, hlength⟩]
    rfl
  · rw [if_neg fun ⟨hmode, hlength⟩ => hnot.elim (absurd hmode) (absurd hlength)]

end Sys2Proof.Machine
end

section
/-! PROOF. The tick of the local reference (R1): what falls due, in what order it waits, and what is counted. -/

namespace Sys2Proof.Machine

/-! ### The events of a tick, one by one -/

@[simp] theorem mem_raised {cause : Bool} {e x : Instr} : x ∈ raised cause e ↔ cause = true ∧ x = e := by
  cases cause <;> simp [raised]

@[simp] theorem expired_iff {t : Option Nat} : expired t = true ↔ t = some 0 := decide_eq_true_iff

@[simp] theorem candidateExpired_iff {k : Option Candidate} :
    candidateExpired k = true ↔ ∃ l, k = some ⟨l, 0⟩ := by
  cases k with
  | none => simp [candidateExpired]
  | some k => obtain ⟨l, e⟩ := k; simp [candidateExpired]

@[simp] theorem lifetimeOver_iff {g : Option Staged} :
    lifetimeOver g = true ↔ ∃ k, g = some k ∧ k.lifetime = 0 := by
  cases g <;> simp [lifetimeOver]

@[simp] theorem Peer.silenceExpired_iff {p : Peer} : p.silenceExpired = true ↔ p.presence = .present 0 :=
  decide_eq_true_iff

/-- The IFG of a round ends: its order is open and its time is there (R144). -/
theorem State.atIfgEnd_iff {s : State} :
    s.atIfgEnd = true ↔ s.line.round = some ⟨s.cfg.bitTicks * s.cfg.ifg, none⟩ := by
  unfold State.atIfgEnd
  cases s.line.round with
  | none => simp
  | some r =>
    obtain ⟨e, o⟩ := r
    simp [Params.slotStart, and_comm]

/-- A round ends: its order is fixed and its last slot is over (R141). -/
theorem State.atRoundEnd_iff {s : State} :
    s.atRoundEnd = true ↔ ∃ o, s.line.round = some ⟨s.cfg.slotStart (slotCount s.cfg.slots o), some o⟩ := by
  unfold State.atRoundEnd
  cases s.line.round with
  | none => simp
  | some r =>
    obtain ⟨e, o⟩ := r
    cases o <;> simp

/-- The station's slot starts: the order is fixed and the slot's time is there (R148). -/
theorem State.atOwnSlot_iff {s : State} :
    s.atOwnSlot = true ↔
      ∃ o, s.line.round = some ⟨s.cfg.slotStart (slotOf s.cfg.slots o s.cfg.ownId), some o⟩ := by
  unfold State.atOwnSlot
  cases s.line.round with
  | none => simp
  | some r =>
    obtain ⟨e, o⟩ := r
    cases o <;> simp

/-- What the episode brings (R22, R151). -/
theorem mem_episodeEvents {e : Episode} {x : Instr} : x ∈ episodeEvents e ↔
    (e = .searching 0 ∧ x = .delimiterSearchEnded) ∨
      ((∃ y, e = .own y ∧ y.driving = true ∧ y.left = 0) ∧ x = .ownComplete) := by
  cases e <;> simp [episodeEvents]

/-- What the phase of a channel brings (R74, R75, R77). -/
theorem mem_channelEvents {c : ChannelId} {p : Phase} {x : Instr} : x ∈ channelEvents c p ↔
    (p = .on 0 ∧ x = .onPhaseExpiry c) ∨ (p = .off 0 ∧ x = .offPhaseExpiry c) ∨
      (p = .recover 0 ∧ x = .recoverExpiry c) := by
  cases p <;> simp [channelEvents]

/-- A sample instant is one of two commands (log 16). -/
theorem State.eq_sampleEvent_iff {n : InputId} {level : Bool} {s : State} {e : Instr} : e = s.sampleEvent n level ↔
    (s.edgeNow n level = true ∧ e = .inputEdge n level) ∨ (s.edgeNow n level = false ∧ e = .inputSample n level) := by
  unfold State.sampleEvent
  cases s.edgeNow n level <;> simp

/-- The events of a tick. -/
theorem State.mem_expiries {s : State} {e : Instr} : e ∈ s.expiries ↔
    (s.loader.readLeft = some 0 ∧ e = .readEnd (shiftedBytes s.loader.shift)) ∨
    (s.loader.joinLeft = some 0 ∧ e = .joinWindowEnd s.tinLevels) ∨
    ((∃ l, s.timebase.candidate = some ⟨l, 0⟩) ∧ e = .candidateExpiry) ∨
    (s.line.beaconTimer = some 0 ∧ e = .beaconTimerExpiry) ∨
    (s.line.announcedTimer = some 0 ∧ e = .announcedTimerExpiry) ∨
    (e ∈ episodeEvents s.line.episode) ∨
    (s.atIfgEnd = true ∧ e = .ifgEnd) ∨
    (s.atRoundEnd = true ∧ e = .roundEnd) ∨
    (∃ x : StationId, s.peers[x].presence = .present 0 ∧ e = .silenceTimerExpiry x) ∨
    (∃ n : InputId, s.inputs[n].sampleTimer = some 0 ∧ e = s.sampleEvent n s.ext.tin[n]) ∨
    (∃ c : ChannelId, (∃ g, s.staging[c] = some g ∧ g.lifetime = 0) ∧ e = .stageLapse c) ∨
    (∃ c : ChannelId, e ∈ channelEvents c s.channels[c].phase) := by
  unfold State.expiries
  simp only [List.mem_append, mem_raised, expired_iff, candidateExpired_iff, List.mem_flatMap, List.mem_finRange,
    true_and, Peer.silenceExpired_iff, lifetimeOver_iff, or_assoc]

/-- The bits of a sum of powers, for the four inputs. -/
theorem tinLevels_of_four (a b c d : Bool) :
    BitVec.ofNat 4 ((([a, b, c, d].zipIdx.map fun p : Bool × Nat => if p.1 then 2 ^ p.2 else 0)).sum) =
      BitVec.ofBool d ++ BitVec.ofBool c ++ BitVec.ofBool b ++ BitVec.ofBool a := by
  revert a b c d
  decide

/-- The levels at the inputs as a set hold the level of each input (R113). -/
theorem State.tinLevels_getLsbD (s : State) (m : InputId) : s.tinLevels.getLsbD m.val = s.ext.tin[m] := by
  unfold State.tinLevels
  generalize s.ext.tin = tin
  obtain ⟨⟨l⟩, hsize⟩ := tin
  match l, hsize with
  | [a, b, c, d], _ =>
    have hlevels := tinLevels_of_four a b c d
    change (BitVec.ofNat 4 ((([a, b, c, d].zipIdx.map fun p : Bool × Nat => if p.1 then 2 ^ p.2 else 0)).sum)).getLsbD
      m.val = [a, b, c, d][m]
    rw [hlevels]
    revert a b c d m
    decide

/-- A set of levels is the set at the inputs when it holds the level of each (R113). -/
theorem State.eq_tinLevels_iff {s : State} {v : BitVec 4} :
    v = s.tinLevels ↔ ∀ m : InputId, v.getLsbD m.val = s.ext.tin[m] := by
  refine ⟨fun hv m => by rw [hv, s.tinLevels_getLsbD], fun hv => BitVec.eq_of_getLsbD_eq fun i hi => ?_⟩
  rw [hv ⟨i, hi⟩, s.tinLevels_getLsbD ⟨i, hi⟩]

/-! ### Which commands a tick never brings -/

/-- The commands that no timer brings: frames, and what the line or the outside causes. -/
def isExternal (e : Instr) : Bool :=
  (frameOf e).isSome || decide (e ∈ [.reset, .resetRelease, .carrierStart, .transmitStart, .readbackMismatch,
    .ownAborted, .badEpisode, .foreignFrame, .clash, .unjudgedFrameEnd, .dueDelivery, .delimiterFound])

/-- No timer brings an external command. -/
theorem State.not_external_of_mem_expiries {s : State} {e : Instr} (h : e ∈ s.expiries) : isExternal e = false := by
  rcases State.mem_expiries.mp h with ⟨-, rfl⟩ | ⟨-, rfl⟩ | ⟨-, rfl⟩ | ⟨-, rfl⟩ | ⟨-, rfl⟩ | hepisode | ⟨-, rfl⟩ |
    ⟨-, rfl⟩ | ⟨x, -, rfl⟩ | ⟨n, -, hsample⟩ | ⟨c, -, rfl⟩ | ⟨c, hchannel⟩
  case inr.inr.inr.inr.inr.inl =>
    rcases mem_episodeEvents.mp hepisode with ⟨-, rfl⟩ | ⟨-, rfl⟩ <;> simp [isExternal, frameOf]
  case inr.inr.inr.inr.inr.inr.inr.inr.inr.inl =>
    rcases State.eq_sampleEvent_iff.mp hsample with ⟨-, rfl⟩ | ⟨-, rfl⟩ <;> simp [isExternal, frameOf]
  case inr.inr.inr.inr.inr.inr.inr.inr.inr.inr.inr =>
    rcases mem_channelEvents.mp hchannel with ⟨-, rfl⟩ | ⟨-, rfl⟩ | ⟨-, rfl⟩ <;> simp [isExternal, frameOf]
  all_goals simp [isExternal, frameOf]

/-! ### The order of the events of one instant (log 2) -/

/-- A free order is an order of the same events. -/
theorem arrange_perm (n : Nat) (l : List Instr) : (arrange n l).Perm l := by
  induction n, l using arrange.induct with
  | case1 => exact .refl _
  | case2 => exact .refl _
  | case3 n e e' rest ih =>
    rw [arrange]
    refine (List.perm_insertIdx _ _ ?_).trans (ih.cons e)
    exact Nat.le_of_lt_succ (Nat.mod_lt _ (Nat.succ_pos _))

/-- The first place of the slot start is one of the list. -/
theorem slotPlace_le (l : List Instr) : slotPlace l ≤ l.length := by
  unfold slotPlace
  split
  · rename_i hmem
    exact List.idxOf_lt_length_iff.mpr hmem
  · exact Nat.zero_le _

/-- The place that the slot start takes. -/
theorem slotPlace_add_le (n : Nat) (l : List Instr) :
    slotPlace l + Config.order n % (l.length - slotPlace l + 1) ≤ l.length := by
  have hplace := slotPlace_le l
  have hmod : Config.order n % (l.length - slotPlace l + 1) < l.length - slotPlace l + 1 :=
    Nat.mod_lt _ (Nat.succ_pos _)
  omega

/-- The slot start joins the events. -/
theorem placeSlotStart_perm (n : Nat) (l : List Instr) : (placeSlotStart n l).Perm (.transmitStart :: l) :=
  List.perm_insertIdx _ _ (slotPlace_add_le n l)

/-- An entry inserted at a place stands between what was before the place and the rest. -/
theorem insertIdx_eq_append {α : Type} (y : α) (l : List α) (k : Nat) (hk : k ≤ l.length) :
    l.insertIdx k y = l.take k ++ y :: l.drop k := by
  induction k generalizing l with
  | zero => simp
  | succ k ih =>
    cases l with
    | nil => simp at hk
    | cons x rest => simp [ih rest (by simpa using hk)]

/-- What stands before the place at which a new entry is inserted stands before the entry. -/
theorem idxOf_insertIdx_lt {l : List Instr} {x y : Instr} {k : Nat} (hk : k ≤ l.length) (hx : l.idxOf x < k)
    (hy : y ∉ l) : (l.insertIdx k y).idxOf x < (l.insertIdx k y).idxOf y := by
  have hsplit := insertIdx_eq_append y l k hk
  have hxmem : x ∈ l.take k := by
    have hlt : l.idxOf x < l.length := by omega
    have hget : l[l.idxOf x] = x := List.getElem_idxOf hlt
    exact List.mem_take_iff_getElem.mpr ⟨l.idxOf x, by omega, hget⟩
  have hymem : y ∉ l.take k := fun hmem => hy (List.mem_of_mem_take hmem)
  have hlength : (l.take k).length = k := List.length_take_of_le hk
  rw [hsplit, List.idxOf_append_of_mem hxmem, List.idxOf_append_of_notMem hymem, List.idxOf_cons_self]
  have hlt := List.idxOf_lt_length_iff.mpr hxmem
  omega

/-- The slot start stands after the end of the IFG (R144). -/
theorem ifgEnd_before_slotStart {n : Nat} {l : List Instr} (hmem : .ifgEnd ∈ placeSlotStart n l)
    (hnew : .transmitStart ∉ l) :
    (placeSlotStart n l).idxOf .ifgEnd < (placeSlotStart n l).idxOf .transmitStart := by
  have hifg : .ifgEnd ∈ l := by
    have hcons := (placeSlotStart_perm n l).mem_iff.mp hmem
    exact (List.mem_cons.mp hcons).resolve_left nofun
  refine idxOf_insertIdx_lt (slotPlace_add_le n l) ?_ hnew
  have hplace : slotPlace l = l.idxOf .ifgEnd + 1 := if_pos hifg
  omega

/-- The events of an instant are the tick of bus time, what falls due and the slot start, when it may come. -/
theorem State.instant_perm (s : State) : s.instant.Perm (.dueDelivery :: s.expiries ++
    if s.slotMayStart then [.transmitStart] else []) := by
  have harranged := arrange_perm s.choice (.dueDelivery :: s.expiries)
  unfold State.instant
  dsimp only
  split
  · exact (placeSlotStart_perm _ _).trans ((harranged.cons _).trans (List.perm_append_singleton _ _).symm)
  · rw [List.append_nil]
    exact harranged

/-- The slot start is not among the events it is placed into. -/
theorem State.transmitStart_not_arranged (s : State) :
    Instr.transmitStart ∉ arrange s.choice (.dueDelivery :: s.expiries) := by
  intro hmem
  have hcons := (arrange_perm s.choice (.dueDelivery :: s.expiries)).mem_iff.mp hmem
  have hevent := (List.mem_cons.mp hcons).resolve_left nofun
  cases State.not_external_of_mem_expiries hevent

/-- In an instant the slot start stands after the end of the IFG (R144). -/
theorem State.instant_ordered {s : State} (hstart : s.slotMayStart = true) (hmem : .ifgEnd ∈ s.instant) :
    s.instant.idxOf .ifgEnd < s.instant.idxOf .transmitStart := by
  have hinstant : s.instant = placeSlotStart (s.choice + (arrange s.choice (.dueDelivery :: s.expiries)).length)
      (arrange s.choice (.dueDelivery :: s.expiries)) := if_pos hstart
  rw [hinstant] at hmem ⊢
  exact ifgEnd_before_slotStart hmem s.transmitStart_not_arranged

/-- A step on an empty queue is a tick. -/
theorem step_of_empty {s : State} (h : s.pending = []) : step s = .next s.localTick := by
  simp [step, h]

/-- Settles O3: a tick without events moves bus time alone, and one with events puts them into the queue. -/
theorem emptyQueueIsOneTick : Obligations.EmptyQueueIsOneTick := by
  refine fun s hpending => ⟨fun hheld => ?_, fun hheld hnone hslot hdue => ?_, fun hheld hsome => ?_⟩
  · rw [step_of_empty hpending, State.localTick_of_held hheld]
  · have hquiet : s.countDown.quietTick = true := by simp [State.quietTick, hnone, hslot, hdue]
    rw [step_of_empty hpending, State.localTick, if_neg (by simp [hheld]), if_pos hquiet, State.advanceBusTime,
      s.countDown_timebase]
    rfl
  · have hquiet : ¬s.countDown.quietTick = true := by
      rcases hsome with hevents | hslot | hdue
      · simp [State.quietTick, hevents]
      · simp [State.quietTick, hslot]
      · simp [State.quietTick, hdue]
    refine ⟨s.countDown.instant, s.countDown.choice + s.countDown.instant.length, ?_, s.countDown.instant_perm,
      State.instant_ordered⟩
    rw [step_of_empty hpending, State.localTick, if_neg (by simp [hheld]), if_neg hquiet]
    rfl

/-! ### What a tick counts -/

/-- A tick of a read shifts a bit in when MCK rises in a data cycle, and at no other time (R178). -/
theorem shiftAfter_iff_rise (m : List Host.Cell) (n : Nat) (shift : List Bool) :
    shiftAfter m (some (n - 1)) shift =
      if (mckAt (readElapsed n) = false ∧ mckAt (readElapsed (n - 1)) = true) ∧ 24 ≤ readElapsed (n - 1) / 8 then
        shift ++ [mdiBit m (readElapsed (n - 1) / 8 - 24)]
      else shift := by
  have hiff : (mckRisesAt (readElapsed (n - 1)) && decide (24 ≤ readElapsed (n - 1) / 8)) = true ↔
      (mckAt (readElapsed n) = false ∧ mckAt (readElapsed (n - 1)) = true) ∧ 24 ≤ readElapsed (n - 1) / 8 := by
    rw [Bool.and_eq_true, decide_eq_true_eq]
    refine and_congr_left fun hcycle => ?_
    cases n with
    | zero =>
      have hlate : mckRisesAt (readElapsed 0) = false ∧ mckAt (readElapsed 0) = false := by
        simp [mckRisesAt, mckAt, readElapsed]
      simp [hlate.1, hlate.2]
    | succ n =>
      have hnext : readElapsed n = readElapsed (n + 1) + 1 := by
        simp only [readElapsed, Nat.add_sub_cancel] at hcycle ⊢
        omega
      rw [Nat.add_sub_cancel, hnext, mckRisesAt_succ, Bool.and_eq_true, Bool.not_eq_true']
  unfold shiftAfter
  simp only [hiff]

/-- Counting the timers leaves an episode that is neither a search nor an own frame. -/
theorem Episode.tick_of_still {e : Episode} (hsearch : ∀ n, e ≠ .searching n) (hown : ∀ x, e ≠ .own x) :
    e.tick = e := by
  cases e with
  | searching n => exact absurd rfl (hsearch n)
  | own x => exact absurd rfl (hown x)
  | _ => rfl

/-- A silence timer counts while the peer is present (R158). -/
theorem Peer.tick_of_present {p : Peer} {n : Nat} (h : p.presence = .present n) :
    p.tick = { p with presence := .present (n - 1) } := by
  simp [Peer.tick, h]

/-- No silence timer counts while the peer is not present. -/
theorem Peer.tick_of_not_present {p : Peer} (h : ∀ n, p.presence ≠ .present n) : p.tick = p := by
  unfold Peer.tick
  split
  · rename_i n hn
    exact absurd hn (h n)
  all_goals rfl

/-- Settles O4: a tick changes what it counts, and beyond that what waits, the counter of free orders and bus time. -/
theorem tickCountsEveryTimer : Obligations.TickCountsEveryTimer := by
  intro s t hpending hheld hstep
  obtain ⟨l, n, b, htick, -⟩ := State.localTick_footprint hheld
  have ht : t = ((s.countDown.withPending l).withChoice n).withTimebase { s.countDown.timebase with busTime := b } := by
    rw [step_of_empty hpending, htick] at hstep
    exact (Host.Outcome.next.inj hstep).symm
  have hloader : t.loader = s.loader.tick s.ext.memory := by simp [ht]
  have hline : t.line = s.line.tick := by simp [ht]
  have htimebase : t.timebase = { s.countDown.timebase with busTime := b } := by rw [ht]; rfl
  have hpeer : ∀ x : StationId, t.peers[x] = s.peers[x].tick := fun x => by rw [ht]; exact s.countDown_peer x
  have hchannel : ∀ c : ChannelId, t.channels[c] = s.channels[c].tick := fun c => by
    rw [ht]; exact s.countDown_channel c
  have hshift : ∀ m, s.loader.readLeft = some m → t.loader.shift = shiftAfter s.ext.memory (some (m - 1)) s.loader.shift :=
    fun m hm => by rw [hloader, Loader.tick, hm]; rfl
  have hmck : ∀ m, s.loader.readLeft = some m → s.mck = mckAt (readElapsed m) ∧ t.mck = mckAt (readElapsed (m - 1)) :=
    fun m hm => by
      have hleft : t.loader.readLeft = some (m - 1) := by rw [hloader, Loader.tick, hm]; rfl
      exact ⟨by rw [State.mck, hm], by rw [State.mck, hleft]⟩
  refine ⟨by rw [hloader]; rfl, fun hnone => by rw [hloader, Loader.tick, hnone]; rfl, fun m hm => ?_,
    by rw [htimebase, s.countDown_timebase], by rw [htimebase, s.countDown_timebase]; rfl,
    by rw [hline]; rfl, by rw [hline]; rfl, by rw [hline]; rfl, fun m hm => by rw [hline, Line.tick, hm]; rfl,
    fun x hx => by rw [hline, Line.tick, hx]; rfl, fun hsearch hown => ?_, by rw [hline]; rfl, by rw [hline]; rfl,
    by rw [hline]; rfl, by rw [hline]; rfl, fun x m hm => (hpeer x).trans (Peer.tick_of_present hm),
    fun x hx => (hpeer x).trans (Peer.tick_of_not_present hx), fun i => by rw [ht]; exact s.countDown_input i,
    fun c => by rw [ht]; exact s.countDown_staged c, fun c m hm => ?_, fun c m hm => ?_, fun c m hm => ?_,
    fun c hc => ?_, by simp [ht], by simp [ht], by simp [ht], by simp [ht], by simp [ht], by simp [ht]⟩
  · obtain ⟨hs, ht⟩ := hmck m hm
    dsimp only
    rw [hs, ht, hshift m hm, shiftAfter_iff_rise]
    exact ⟨fun hrise => if_pos hrise, fun hrise => if_neg hrise⟩
  · rw [hline]
    exact Episode.tick_of_still hsearch hown
  · rw [hchannel, Channel.tick, hm]
  · rw [hchannel, Channel.tick, hm]
  · rw [hchannel, Channel.tick, hm]
  · rw [hchannel, Channel.tick]
    rcases hc with hidle | hhold
    · rw [hidle]
    · rw [hhold]

/-! ### What a tick brings -/

/-- A sample of an input falls due at its sample instant, with the level at the input (R113 to R115). -/
theorem State.sample_mem_expiries {s : State} {n : InputId} {level : Bool} :
    (.inputSample n level ∈ s.expiries ∨ .inputEdge n level ∈ s.expiries) ↔
      s.inputs[n].sampleTimer = some 0 ∧ level = s.ext.tin[n] := by
  have hsample : .inputSample n level ∈ s.expiries ↔ s.inputs[n].sampleTimer = some 0 ∧
      s.edgeNow n s.ext.tin[n] = false ∧ level = s.ext.tin[n] := by
    rw [State.mem_expiries]
    simp only [mem_episodeEvents, mem_channelEvents, State.eq_sampleEvent_iff]
    simp
  have hedge : .inputEdge n level ∈ s.expiries ↔ s.inputs[n].sampleTimer = some 0 ∧
      s.edgeNow n s.ext.tin[n] = true ∧ level = s.ext.tin[n] := by
    rw [State.mem_expiries]
    simp only [mem_episodeEvents, mem_channelEvents, State.eq_sampleEvent_iff]
    simp
  rw [hsample, hedge]
  cases s.edgeNow n s.ext.tin[n] <;> simp

/-- Settles O5: each event by the timer that brings it, and a read that ends has the memory's block. -/
theorem tickBringsWhatFallsDue : Obligations.TickBringsWhatFallsDue := by
  refine ⟨fun s x n c b v level => ?_, fun s => ?_, fun s b hsound hmem => ?_⟩
  · refine ⟨?_, ?_, ?_, ?_, ?_, ?_, ?_, ?_, ?_, ?_, ?_, ?_, ?_, ?_, ?_, fun e he => ?_⟩
    case refine_16 =>
      have hinternal := State.not_external_of_mem_expiries he
      rw [isExternal, Bool.or_eq_false_iff, Option.isSome_eq_false_iff, Option.isNone_iff_eq_none] at hinternal
      exact ⟨hinternal.1, of_decide_eq_false hinternal.2⟩
    case refine_11 => exact State.sample_mem_expiries
    all_goals simp only [State.mem_expiries, mem_episodeEvents, mem_channelEvents, State.eq_sampleEvent_iff]
    all_goals simp [shiftedBytes, State.eq_tinLevels_iff, State.atIfgEnd_iff, State.atRoundEnd_iff]
  · rw [State.slotMayStart, Bool.or_eq_true, State.atOwnSlot_iff, State.atIfgEnd_iff]
    rfl
  · have hread : s.loader.readLeft = some 0 ∧ b = shiftedBytes s.loader.shift := by
      simpa [State.mem_expiries, mem_episodeEvents, mem_channelEvents, State.eq_sampleEvent_iff] using hmem
    rw [hread.2, (hsound.shifted 0 hread.1).2, dataSamples_end]
    exact shiftedBytes_block s.ext.memory

end Sys2Proof.Machine
end

section
/-! PROOF. The load of a configuration block (R35, R36, R69, R128, R178 to R181). -/

namespace Sys2Proof.Machine

/-! ### Programs and binding entries (R36, R69, R128) -/

/-- A raw program of a kind is the program with its fields. -/
theorem RawProgram.withKind_eq_iff {r : RawProgram} {k : ProgramKind} {p : Program} : r.withKind k = p ↔
    p.width = r.width ∧ p.period = r.period ∧ p.count = r.count ∧ p.kind = k := by
  obtain ⟨kind, width, period, count⟩ := p
  simp only [RawProgram.withKind, Program.mk.injEq]
  tauto

/-- A byte is a code when it has the code's value. -/
theorem byte_eq_iff_toNat {b : Byte} (n : Nat) (hn : n < 256) : b = BitVec.ofNat 8 n ↔ b.toNat = n := by
  rw [← BitVec.toNat_inj, BitVec.toNat_ofNat, Nat.mod_eq_of_lt hn]

/-- A program is valid for its kind (R69). -/
theorem RawProgram.judge_eq_some_iff (r : RawProgram) (p : Program) : r.judge = some p ↔
    p.width = r.width ∧ p.period = r.period ∧ p.count = r.count ∧
      ((r.kindCode = 1 ∧ p.kind = .pulse ∧ 1 ≤ r.width.toNat) ∨
        (r.kindCode = 2 ∧ p.kind = .retrig ∧ 1 ≤ r.width.toNat) ∨
        (r.kindCode = 3 ∧ p.kind = .train ∧ 1 ≤ r.width.toNat ∧ r.width.toNat ≤ 16777214 ∧
          r.width.toNat + 1 ≤ r.period.toNat) ∨
        (r.kindCode = 4 ∧ p.kind = .square ∧ 2 ≤ r.period.toNat) ∨
        (r.kindCode = 5 ∧ p.kind = .levelOn) ∨ (r.kindCode = 6 ∧ p.kind = .levelOff)) := by
  have hcode := fun n hn => byte_eq_iff_toNat (b := r.kindCode) n hn
  rw [show r.kindCode = 1 ↔ _ from hcode 1 (by decide), show r.kindCode = 2 ↔ _ from hcode 2 (by decide),
    show r.kindCode = 3 ↔ _ from hcode 3 (by decide), show r.kindCode = 4 ↔ _ from hcode 4 (by decide),
    show r.kindCode = 5 ↔ _ from hcode 5 (by decide), show r.kindCode = 6 ↔ _ from hcode 6 (by decide)]
  unfold RawProgram.judge
  generalize r.kindCode.toNat = code
  split
  case h_7 =>
    rename_i h₁ h₂ h₃ h₄ h₅ h₆
    simp [show code ≠ 1 from h₁, show code ≠ 2 from h₂, show code ≠ 3 from h₃, show code ≠ 4 from h₄,
      show code ≠ 5 from h₅, show code ≠ 6 from h₆]
  all_goals simp [RawProgram.withKind_eq_iff, and_assoc, and_comm, and_left_comm]

/-- The source that a code gives (R36). -/
theorem sourceOf_eq_some_iff {b : Byte} {x : Source} : sourceOf b = some x ↔
    (∃ i : StationId, x = .station i ∧ b.toNat = i.val) ∨ (x = .any ∧ b.toNat = 255) := by
  unfold sourceOf
  split
  · rename_i h
    constructor
    · rintro ⟨rfl⟩
      exact .inl ⟨⟨b.toNat, h⟩, rfl, rfl⟩
    · rintro (⟨i, rfl, hi⟩ | ⟨-, hany⟩)
      · exact congrArg (some ∘ Source.station) (Fin.ext hi)
      · omega
  · rename_i h
    have hany : b = 255 ↔ b.toNat = 255 := byte_eq_iff_toNat 255 (by decide)
    have hnone : ¬∃ i : StationId, x = .station i ∧ b.toNat = i.val := fun ⟨i, _, hi⟩ => h (hi ▸ i.isLt)
    rw [or_iff_right hnone, ← hany]
    split
    · rename_i heq
      exact ⟨fun hx => ⟨(Option.some.inj hx).symm, heq⟩, fun ⟨hx, _⟩ => hx ▸ rfl⟩
    · rename_i hne
      exact ⟨nofun, fun ⟨_, heq⟩ => absurd heq hne⟩

/-- The edge that a code gives (R36). -/
theorem bindingEdgeOf_eq_some_iff {code : BitVec 2} {e : EdgeSelect} : bindingEdgeOf code = some e ↔
    (e = .rise ∧ code = 1) ∨ (e = .fall ∧ code = 2) ∨ (e = .both ∧ code = 3) := by
  revert code
  cases e <;> decide

/-- The divider that a code gives (R36). -/
theorem dividerOf_eq_some_iff {code d : Nat} : dividerOf code = some d ↔ code ≤ 4 ∧ d = 2 ^ code := by
  unfold dividerOf
  split <;> simp [*, eq_comm]

/-- The channel that a code gives, when it is enabled (R128). -/
theorem enabledChannelOf_eq_some_iff {channels : Vector ChannelConfig 8} {b : Byte} {c : ChannelId} :
    enabledChannelOf channels b = some c ↔ b.toNat = c.val ∧ channels[c].enabled = true := by
  unfold enabledChannelOf
  split
  · rename_i h
    by_cases hc : b.toNat = c.val
    · simp [hc]
    · have hne : (⟨b.toNat, h⟩ : ChannelId) ≠ c := fun heq => hc (congrArg Fin.val heq)
      simp [hc, hne]
  · rename_i h
    have hne : b.toNat ≠ c.val := fun hc => h (hc ▸ c.isLt)
    simp [hne]

/-- The content of an entry that no condition of R128 disables. -/
theorem judgeBinding_eq_some_iff {channels : Vector ChannelConfig 8} {e : List Byte} {c : BindingContent} :
    judgeBinding channels e = some c ↔
      bindingEdgeOf ((byteAt e 0).extractLsb' 3 2) = some c.edge ∧ sourceOf (byteAt e 1) = some c.source ∧
      c.input.val = ((byteAt e 0).extractLsb' 5 2).toNat ∧
      dividerOf ((byteAt e 2).extractLsb' 4 4).toNat = some c.divider ∧
      c.phase = ((byteAt e 2).extractLsb' 0 4).toNat ∧ c.phase < c.divider ∧
      enabledChannelOf channels (byteAt e 3) = some c.channel ∧ c.delay = field24 e 4 ∧
      (rawProgramAt e 7).judge = some c.program := by
  obtain ⟨source, input, edge, divider, phase, channel, delay, program⟩ := c
  unfold judgeBinding
  simp only [Option.bind_eq_bind, Option.bind_eq_some_iff]
  constructor
  · rintro ⟨edge', hedge, source', hsource, divider', hdivider, hrest⟩
    split at hrest
    · rename_i hphase
      simp only [Option.bind_eq_some_iff, Option.some.injEq] at hrest
      obtain ⟨channel', hchannel, program', hprogram, hcontent⟩ := hrest
      cases hcontent
      exact ⟨hedge, hsource, rfl, hdivider, rfl, hphase, hchannel, rfl, hprogram⟩
    · cases hrest
  · rintro ⟨hedge, hsource, hinput, hdivider, hphase, hlow, hchannel, hdelay, hprogram⟩
    subst hphase hdelay
    refine ⟨edge, hedge, source, hsource, divider, hdivider, ?_⟩
    rw [if_pos hlow]
    simp only [Option.bind_eq_some_iff]
    refine ⟨channel, hchannel, program, hprogram, ?_⟩
    rw [show input = ((byteAt e 0).extractLsb' 5 2).toFin from Fin.ext hinput]

/-- An entry is loaded when its enable bit is set and no condition disables it, with its parity computed (R128). -/
theorem loadBinding_eq_some_iff {channels : Vector ChannelConfig 8} {e : List Byte} {b : Binding} :
    loadBinding channels e = some b ↔
      bindingEnabled e = true ∧ b.parity = b.content ∧ judgeBinding channels e = some b.content := by
  obtain ⟨content, parity⟩ := b
  unfold loadBinding
  cases bindingEnabled e
  · simp
  · cases judgeBinding channels e
    · simp
    · simp only [if_true, Option.map_some, Option.some.injEq, Binding.mk.injEq, true_and]
      constructor
      · rintro ⟨rfl, rfl⟩
        exact ⟨rfl, rfl⟩
      · rintro ⟨rfl, rfl⟩
        exact ⟨rfl, rfl⟩

/-- Settles O9: the checks of programs and entries, one condition each. -/
theorem bindingsAndProgramsAtLoad : Obligations.BindingsAndProgramsAtLoad := by
  refine ⟨RawProgram.judge_eq_some_iff, fun channels e b => ?_⟩
  rw [loadBinding_eq_some_iff, judgeBinding_eq_some_iff, bindingEdgeOf_eq_some_iff, sourceOf_eq_some_iff,
    dividerOf_eq_some_iff, enabledChannelOf_eq_some_iff, bindingEnabled, and_assoc, and_assoc]

/-! ### The end of a read (R178 to R181) -/

/-- The bytes of an entry are the block's. -/
theorem byteAt_bindingBytes (b : List Byte) (i : Nat) : byteAt (bindingBytes b i) 0 = byteAt b (64 + 16 * i) := by
  simp [byteAt, bindingBytes, List.getD]

/-- An entry that is enabled in the block and not loaded. -/
theorem rejectsBinding_iff {channels : Vector ChannelConfig 8} {b : List Byte} :
    rejectsBinding channels b = true ↔ ∃ i : BindingId,
      (byteAt b (64 + 16 * i)).getLsbD 7 = true ∧ (loadBindings channels b)[i] = none := by
  have hload : ∀ i : BindingId, (loadBindings channels b)[i] = loadBinding channels (bindingBytes b i) := fun i => by
    simp [loadBindings]
  unfold rejectsBinding
  simp only [List.any_eq_true, List.mem_finRange, true_and, Bool.and_eq_true, Option.isNone_iff_eq_none, hload]
  refine exists_congr fun i => ?_
  rw [bindingEnabled, byteAt_bindingBytes]
  refine and_congr_right fun henabled => ?_
  simp [loadBinding, bindingEnabled, byteAt_bindingBytes, henabled]

/-- Nothing but the end of a read ends one (log 3). -/
theorem exec_readEnd_of_not_read {s : State} (b : List Byte)
    (h : ¬(s.loader.life = .loading ∧ s.loader.readLeft = some 0)) : exec (.readEnd b) s = .next s :=
  congrArg Host.Outcome.next (if_neg (by simpa using h))

/-- The flags after a load: BINDING_REJECTED, when the block has an entry to reject, and no other (R128). -/
theorem flagIn_flagsAfterLoad_iff {b : List Byte} {flags : BitVec 13} :
    flagIn (flagsAfterLoad b flags) .bindingRejected = true ↔
      flagIn flags .bindingRejected = true ∨ rejectsBinding (paramsOf b).channels b = true := by
  unfold flagsAfterLoad
  split
  · rename_i h
    rw [flagIn_or, h]
    simp
  · rename_i h
    simp [h]

/-- A load leaves every other flag. -/
theorem flagIn_flagsAfterLoad_of_ne {b : List Byte} {flags : BitVec 13} {x : Flag} (hx : x ≠ .bindingRejected) :
    flagIn (flagsAfterLoad b flags) x = flagIn flags x := by
  unfold flagsAfterLoad
  split
  · rw [flagIn_or]
    simp [hx]
  · rfl

/-- What the fault unit is after a valid block is taken (R165, R128). -/
theorem State.endRead_enterJoining_faults (b : List Byte) (s : State) : ((s.endRead b).enterJoining b).faults =
    { s.faults with mask := maskOf b, flags := flagsAfterLoad b s.faults.flags } := by
  simp [State.enterJoining, State.takeValues_eq, State.openReceiver, State.endRead]

/-- A valid block leaves what a CANCEL has left to do. -/
theorem State.endRead_enterJoining_scopeLeft (b : List Byte) (s : State) :
    ((s.endRead b).enterJoining b).scopeLeft = s.scopeLeft := by
  simp [State.enterJoining, State.takeValues_eq, State.openReceiver, State.endRead]

/-- What each flag is after a valid block is taken. -/
theorem State.endRead_enterJoining_flag (b : List Byte) (s : State) (x : Flag) :
    ((s.endRead b).enterJoining b).flag x = flagIn (flagsAfterLoad b s.faults.flags) x := by
  rw [State.flag, State.endRead_enterJoining_faults]

/-- What the line is after a valid block is taken (R22, R181). -/
theorem State.endRead_enterJoining_line (b : List Byte) (s : State) : ((s.endRead b).enterJoining b).line =
    { s.line with
      episode := if s.ext.carrier then .unjudged else .quiet
      round := if s.ext.carrier then none else some Round.fresh } := by
  simp [State.enterJoining, State.takeValues_eq, State.openReceiver, State.endRead]

/-- What the loader is after a valid block is taken (R181). -/
theorem State.endRead_enterJoining_loader (b : List Byte) (s : State) : ((s.endRead b).enterJoining b).loader =
    { s.loader with life := .joining, readLeft := none, shift := [], block := b,
                    joinLeft := some (paramsOf b).joinWindow } := by
  simp [State.enterJoining, State.takeValues_eq, State.openReceiver, State.endRead]

/-- The identifiers and the rate of a valid block are within their ranges (R179). -/
theorem ranges_of_blockValid {b : List Byte} (h : blockValid b = true) :
    (paramsOf b).ownId.val = (byteAt b 3).toNat ∧ (paramsOf b).rate.val = (byteAt b 7).toNat := by
  have hline : checkLine b = true := by
    simp only [blockValid, Bool.and_eq_true] at h
    obtain ⟨⟨⟨⟨⟨-, hline⟩, -⟩, -⟩, -⟩, -⟩ := h
    exact hline
  obtain ⟨-, hslots, hown, hrate, -⟩ := (checkLine_iff b).mp hline
  exact ⟨Nat.mod_eq_of_lt (hown.trans_le hslots), Nat.mod_eq_of_lt (Nat.lt_succ_of_le hrate)⟩

/-- Settles O8: an invalid block makes the station UNCONFIGURED, and a valid one gives every block its values. -/
theorem readEndOutcome : Obligations.ReadEndOutcome := by
  refine ⟨fun b s => ⟨fun hlife hleft hinvalid => ⟨_, ?_, rfl, rfl, fun c => State.tout_of_inactive rfl c⟩,
    exec_readEnd_of_not_read b⟩, fun b s hlife hleft hvalid => ⟨(s.endRead b).enterJoining b, ?_, ?_⟩⟩
  · rw [exec_readEnd_of_read b hlife hleft, State.judgeBlock, if_neg (by simp [State.endRead, hinvalid])]
    rfl
  · rw [exec_readEnd_of_read b hlife hleft, State.judgeBlock, if_pos (by simp [State.endRead, hvalid])]
    rfl
  · obtain ⟨hown, hrate⟩ := ranges_of_blockValid hvalid
    rw [State.endRead_enterJoining_loader, State.endRead_enterJoining_cfg,
      State.endRead_enterJoining_bindings, State.endRead_enterJoining_faults, State.endRead_enterJoining_line,
      State.endRead_enterJoining_ext, State.endRead_enterJoining_timebase, State.endRead_enterJoining_peers,
      State.endRead_enterJoining_inputs, State.endRead_enterJoining_queue, State.endRead_enterJoining_staging,
      State.endRead_enterJoining_channels, State.endRead_enterJoining_flag]
    refine ⟨rfl, hown, rfl, rfl, hrate, rfl, rfl, rfl, rfl, rfl, rfl, rfl, rfl, rfl, rfl, fun n => ?_, fun n => ?_,
      fun i => ?_, rfl, ?_, fun x hx => ?_, rfl, rfl, fun hcarrier => ?_,
      fun hcarrier => ?_, rfl, rfl, rfl, rfl, rfl, rfl, rfl,
      State.endRead_enterJoining_scopeLeft b s⟩
    · rw [show (paramsOf b).inputs[n] = inputConfig b n by simp [paramsOf]]
      exact ⟨rfl, rfl, rfl⟩
    · simp [paramsOf, channelConfig, num8]
    · simp [loadBindings, bindingBytes]
    · rw [flagIn_flagsAfterLoad_iff, rejectsBinding_iff]
      rfl
    · rw [State.endRead_enterJoining_flag]
      exact flagIn_flagsAfterLoad_of_ne hx
    · simp [hcarrier, Round.fresh]
    · simp [hcarrier]

end Sys2Proof.Machine
end

section
/-! PROOF. Rounds, their order and the slots of the stations (R141 to R146). -/

namespace Sys2Proof.Machine

/-! ### The end of the IFG and of a round (R141 to R146) -/

/-- The order of a NORMAL round (R145). -/
theorem State.roundOrder_of_normal {s : State} {r : StationId} (hmode : s.line.mode = .normal)
    (hlast : s.line.lastSender = some r) : s.roundOrder = ⟨.normal, r.val, s.compactList r.val⟩ := by
  simp [State.roundOrder, hmode, hlast]

/-- One bit time in ticks, by the rate. -/
theorem Params.bitTicks_pos (p : Params) : 2 ≤ p.bitTicks := by
  unfold Params.bitTicks
  split <;> omega

/-- At the end of the IFG the order is fixed (R144). -/
theorem exec_ifgEnd_of_end {s : State} {e : Nat} (hround : s.line.round = some ⟨e, none⟩)
    (hend : e = s.cfg.bitTicks * s.cfg.ifg) :
    exec .ifgEnd s = .next (s.withLine { s.line with round := some ⟨e, some s.roundOrder⟩ }) := by
  have hat : s.atIfgEnd = true := State.atIfgEnd_iff.mpr (by rw [hround, hend])
  change Host.Outcome.next (if s.atIfgEnd then s.fixOrder else s) = _
  rw [if_pos hat, State.fixOrder, hround]
  rfl

/-- At the end of a round without carrier the next begins (R141, R142). -/
theorem exec_roundEnd_of_end {s : State} {e : Nat} {o : RoundOrder} (hround : s.line.round = some ⟨e, some o⟩)
    (hend : e = s.cfg.slotStart (slotCount s.cfg.slots o)) :
    exec .roundEnd s = .next (s.withLine { s.line with
      mode := modeAfterQuiet s.line.mode s.line.lastSender, round := some Round.fresh }) := by
  have hat : s.atRoundEnd = true := State.atRoundEnd_iff.mpr ⟨o, by rw [hround, hend]⟩
  change Host.Outcome.next (if s.atRoundEnd then s.nextRound else s) = _
  rw [if_pos hat]
  rfl

/-- After a quiet round the mode is NORMAL when the last sender is known (R142). -/
theorem modeAfterQuiet_of_some (m : RoundMode) (x : StationId) : modeAfterQuiet m (some x) = .normal := by
  cases m <;> rfl

/-- Settles O12: the order by the mode, the next round by what is known of the last sender. -/
theorem roundsAreOrderedAndFollowed : Obligations.RoundsAreOrderedAndFollowed := by
  refine ⟨fun s => ⟨fun e hround hend => ⟨fun r hmode hlast => ?_, fun hmode => ?_⟩, fun hnot => ?_⟩,
    fun s => ⟨fun e o hround hend => ⟨fun x hlast => ?_, fun hlast hmode => ?_⟩, fun hnot => ?_⟩,
    fun p k => ⟨rfl, fun hr => ?_, fun hr => ?_, fun hr => ?_, fun hr => ?_⟩⟩
  · rw [exec_ifgEnd_of_end hround hend, State.roundOrder_of_normal hmode hlast]
    rfl
  · rw [exec_ifgEnd_of_end hround hend, State.roundOrder_of_openRound hmode]
    rfl
  · refine congrArg Host.Outcome.next (if_neg fun hat => ?_)
    exact hnot _ (State.atIfgEnd_iff.mp hat) rfl
  · rw [exec_roundEnd_of_end hround hend, hlast, modeAfterQuiet_of_some]
    rfl
  · have hstays : modeAfterQuiet s.line.mode s.line.lastSender = s.line.mode := by rw [hlast, hmode]; rfl
    rw [exec_roundEnd_of_end hround hend, hstays]
    rfl
  · refine congrArg Host.Outcome.next (if_neg fun hat => ?_)
    obtain ⟨o, ho⟩ := State.atRoundEnd_iff.mp hat
    exact hnot _ o ho rfl
  all_goals rw [Params.bitTicks, hr]

/-! ### Positions in a round (R144) -/

/-- The position of an identifier of the ring, counted from the reference. -/
theorem position_eq {slots r : Nat} {x : StationId} (hr : r < slots) (hx : x.val < slots) :
    position slots r x = if r < x.val then x.val - r - 1 else x.val + slots - r - 1 := by
  unfold position
  split
  · rename_i hlt
    have hin : (x.val : Int) - r - 1 = ((x.val - r - 1 : Nat) : Int) := by omega
    rw [hin, ← Int.natCast_emod, Int.toNat_natCast, Nat.mod_eq_of_lt (by omega)]
  · rename_i hge
    have hin : (x.val : Int) - r - 1 = ((x.val + slots - r - 1 : Nat) : Int) - slots := by omega
    rw [hin, Int.sub_emod_right, ← Int.natCast_emod, Int.toNat_natCast, Nat.mod_eq_of_lt (by omega)]

/-- A position is one of the ring. -/
theorem position_lt {slots r : Nat} {x : StationId} (hr : r < slots) (hx : x.val < slots) :
    position slots r x < slots := by
  rw [position_eq hr hx]
  split <;> omega

/-- The identifier at the position of an identifier is that identifier. -/
theorem mod_position {slots r : Nat} {x : StationId} (hr : r < slots) (hx : x.val < slots) :
    (r + 1 + position slots r x) % slots = x.val := by
  rw [position_eq hr hx]
  split
  · rename_i hlt
    rw [show r + 1 + (x.val - r - 1) = x.val by omega, Nat.mod_eq_of_lt hx]
  · rename_i hge
    rw [show r + 1 + (x.val + slots - r - 1) = x.val + slots by omega, Nat.add_mod_right, Nat.mod_eq_of_lt hx]

/-- No two identifiers of the ring share a position. -/
theorem position_injective {slots r : Nat} {x y : StationId} (hr : r < slots) (hx : x.val < slots) (hy : y.val < slots)
    (h : position slots r x = position slots r y) : x = y := by
  rw [Fin.ext_iff, ← mod_position hr hx, h, mod_position hr hy]

/-- The identifier at a position is one of the ring. -/
theorem atPosition_val {slots r p : Nat} (hslots : slots ≤ 32) (hp : p < slots) :
    (atPosition slots r p).val = (r + 1 + p) % slots := by
  have hlt : (r + 1 + p) % slots < slots := Nat.mod_lt _ (by omega)
  exact Nat.mod_eq_of_lt (hlt.trans_le hslots)

/-- An identifier is at its position. -/
theorem atPosition_position {slots r : Nat} {x : StationId} (hslots : slots ≤ 32) (hr : r < slots)
    (hx : x.val < slots) : atPosition slots r (position slots r x) = x :=
  Fin.ext (by rw [atPosition_val hslots (position_lt hr hx), mod_position hr hx])

/-- The position of the identifier at a position is that position. -/
theorem position_atPosition {slots r p : Nat} (hslots : slots ≤ 32) (hr : r < slots) (hp : p < slots) :
    position slots r (atPosition slots r p) = p := by
  have hval := atPosition_val (r := r) hslots hp
  have hlt : (atPosition slots r p).val < slots := by rw [hval]; exact Nat.mod_lt _ (by omega)
  rw [position_eq hr hlt, hval]
  by_cases hturn : r + 1 + p < slots
  · rw [Nat.mod_eq_of_lt hturn, if_pos (by omega)]
    omega
  · have hmod : (r + 1 + p) % slots = r + 1 + p - slots := by
      rw [Nat.mod_eq_sub_mod (by omega), Nat.mod_eq_of_lt (by omega)]
    rw [hmod, if_neg (by omega)]
    omega

/-! ### The compact list (R145) -/

/-- Only identifiers of the ring are in the compact list. -/
theorem PeersSound.lt_of_inCompact {s : State} (h : PeersSound s) (hactive : s.active = true) {x : StationId}
    (hin : s.inCompact x = true) : x.val < s.cfg.slots := by
  by_contra hout
  have hpeer := h.outsideAbsent x (.inr (.inr (Nat.le_of_not_lt hout)))
  have hown : x ≠ s.cfg.ownId := fun hx => hout (hx ▸ (h.ownInRing hactive).1)
  rw [State.inCompact, hpeer] at hin
  simp [hown, Peer.isPresent, Peer.atReset] at hin

/-- The compact list holds the PRESENT peers, and the station itself while announced. -/
theorem PeersSound.mem_compactList {s : State} (h : PeersSound s) (hactive : s.active = true) {r : Nat}
    (hr : r < s.cfg.slots) (x : StationId) : x ∈ s.compactList r ↔
      s.peers[x].isPresent = true ∨ (x = s.cfg.ownId ∧ s.announced = true) := by
  obtain ⟨-, -, hslots⟩ := h.ownInRing hactive
  have hiff : x ∈ s.compactList r ↔ s.inCompact x = true := by
    rw [State.compactList, List.mem_filter, and_iff_right_iff_imp]
    intro hin
    have hx := h.lt_of_inCompact hactive hin
    exact List.mem_map.mpr ⟨position s.cfg.slots r x, List.mem_range.mpr (position_lt hr hx),
      atPosition_position hslots hr hx⟩
  rw [hiff, State.inCompact, Bool.or_eq_true, Bool.and_eq_true, decide_eq_true_eq]

/-- The positions of the identifiers in order of position. -/
theorem map_position_atPosition {slots r : Nat} (hslots : slots ≤ 32) (hr : r < slots) :
    ((List.range slots).map (atPosition slots r)).map (position slots r) = List.range slots := by
  rw [List.map_map]
  exact (List.map_congr_left fun p hp => position_atPosition hslots hr (List.mem_range.mp hp)).trans (List.map_id _)

/-- The compact list is ordered by position. -/
theorem State.compactList_ordered {s : State} {r : Nat} (hslots : s.cfg.slots ≤ 32) (hr : r < s.cfg.slots) :
    ((s.compactList r).map (position s.cfg.slots r)).Pairwise (· < ·) := by
  have hsub := (List.filter_sublist (l := (List.range s.cfg.slots).map (atPosition s.cfg.slots r))
    (p := s.inCompact)).map (position s.cfg.slots r)
  rw [map_position_atPosition hslots hr] at hsub
  exact List.pairwise_lt_range.sublist hsub

/-! ### The slots of a NORMAL round (R145) -/

/-- A station in the compact list has the slot of its place in it. -/
theorem slotOf_of_mem {slots r : Nat} {cl : List StationId} {x : StationId} (h : x ∈ cl) :
    slotOf slots ⟨.normal, r, cl⟩ x = cl.idxOf x := if_pos h

/-- A station outside the compact list has a slot of the open region. -/
theorem slotOf_of_not_mem {slots r : Nat} {cl : List StationId} {x : StationId} (h : x ∉ cl) :
    slotOf slots ⟨.normal, r, cl⟩ x = cl.length + position slots r x := if_neg h

/-- No two identifiers of the ring share a slot. -/
theorem slotOf_injective {slots r : Nat} {cl : List StationId} (hr : r < slots) {x y : StationId}
    (hx : x.val < slots) (hy : y.val < slots)
    (h : slotOf slots ⟨.normal, r, cl⟩ x = slotOf slots ⟨.normal, r, cl⟩ y) : x = y := by
  by_cases hxin : x ∈ cl <;> by_cases hyin : y ∈ cl
  · rw [slotOf_of_mem hxin, slotOf_of_mem hyin] at h
    exact (List.idxOf_inj hxin).mp h
  · rw [slotOf_of_mem hxin, slotOf_of_not_mem hyin] at h
    have hlt := List.idxOf_lt_length_iff.mpr hxin
    omega
  · rw [slotOf_of_not_mem hxin, slotOf_of_mem hyin] at h
    have hlt := List.idxOf_lt_length_iff.mpr hyin
    omega
  · rw [slotOf_of_not_mem hxin, slotOf_of_not_mem hyin] at h
    exact position_injective hr hx hy (Nat.add_left_cancel h)

/-- Settles O13: the compact list is a selection of the ring in order of position, and places in it and positions
behind it are distinct slots. -/
theorem normalRoundSlots : Obligations.NormalRoundSlots := by
  refine ⟨fun s r h hactive hr => ⟨h.mem_compactList hactive hr, ?_, ?_⟩, fun slots r cl hslots hr hnodup _ =>
    ⟨rfl, fun i x hi => ?_, fun x => slotOf_of_not_mem, fun x hx => ⟨position_lt hr hx, mod_position hr hx⟩,
      fun x y hx hy => slotOf_injective hr hx hy⟩⟩
  · exact State.compactList_ordered (h.ownInRing hactive).2.2 hr
  · calc (s.compactList r.val).length
        ≤ ((List.range s.cfg.slots).map (atPosition s.cfg.slots r.val)).length := List.length_filter_le _ _
      _ = s.cfg.slots := by simp
  · obtain ⟨hlt, rfl⟩ := List.getElem?_eq_some_iff.mp hi
    rw [slotOf_of_mem (List.getElem_mem hlt), List.Nodup.idxOf_getElem hnodup]

/-! ### The start of an own frame (R148, R149) -/

/-- The first payload byte of an EDGE frame (R34). -/
theorem edgeByte_eq (n : InputId) (rising overrun : Bool) :
    BitVec.ofNat 8 (n.val * 64) ||| bitAt 5 rising ||| bitAt 4 overrun =
      BitVec.ofNat 8 (64 * n.val + (if rising then 32 else 0) + (if overrun then 16 else 0)) := by
  revert n rising overrun
  decide

/-- At its slot the station sends the frame of the head of its list (R148). -/
theorem State.slotStarts_of_head {s : State} {o : RoundOrder} {r : Request} {rest : List Request} {bytes : List Byte}
    (access : s.HasAccess) (hround : s.line.round = some
      ⟨s.cfg.bitTicks * (s.cfg.ifg + slotOf s.cfg.slots o s.cfg.ownId * s.cfg.slotTime), some o⟩)
    (hlist : s.line.txList = r :: rest) (hframe : s.requestFrame r = some bytes) :
    s.slotStarts = s.startFrame r bytes := by
  have hat : s.atOwnSlot = true := State.atOwnSlot_iff.mpr ⟨o, hround⟩
  have hgo : (s.isRunning && !s.mute && s.atOwnSlot) = true := by
    simp [State.isRunning, access.running, access.speaks, hat]
  rw [State.slotStarts, if_pos hgo, hlist]
  dsimp only
  rw [hframe]

/-- While the frame starts LTXE is driven. -/
theorem frameTicks_drives (p : Params) (bytes : List Byte) : 2 * p.bitTicks < p.frameTicks bytes := by
  have hpos := p.bitTicks_pos
  unfold Params.frameTicks
  nlinarith

/-- The states in which a slot start does nothing (R148). -/
theorem State.slotStarts_of_none {s : State}
    (h : s.loader.life ≠ .running ∨ s.mute = true ∨ s.line.txList = [] ∨ s.atOwnSlot = false) :
    s.slotStarts = s := by
  unfold State.slotStarts
  split
  · rename_i hgo
    simp only [State.isRunning, Bool.and_eq_true, decide_eq_true_eq, Bool.not_eq_true'] at hgo
    obtain ⟨⟨hlife, hmute⟩, hat⟩ := hgo
    rcases h with hne | hmuted | hempty | hnot
    · exact absurd hlife hne
    · exact Bool.noConfusion (hmuted.symm.trans hmute)
    · rw [hempty]
    · exact Bool.noConfusion (hnot.symm.trans hat)
  · rfl

/-- What a started frame is on the line (R149). -/
theorem exec_transmitStart_sends {s : State} {o : RoundOrder} {r : Request} {rest : List Request} {bytes : List Byte}
    {inputs : Vector Input 4} (access : s.HasAccess) (hround : s.line.round = some
      ⟨s.cfg.bitTicks * (s.cfg.ifg + slotOf s.cfg.slots o s.cfg.ownId * s.cfg.slotTime), some o⟩)
    (hlist : s.line.txList = r :: rest) (hframe : s.requestFrame r = some bytes)
    (hinputs : s.startFrame r bytes = { s with
      ext := { s.ext with carrier := true }
      line := { s.line with
        episode := .own ⟨bytes, true, s.cfg.bitTicks * (24 + 8 * bytes.length + 2)⟩, round := none }
      inputs := inputs }) :
    ∃ t, exec .transmitStart s = .next t ∧
      t = { s with
        ext := { s.ext with carrier := true },
        line := { s.line with
          episode := .own ⟨bytes, true, s.cfg.bitTicks * (24 + 8 * bytes.length + 2)⟩, round := none },
        inputs := inputs } ∧
      t.ltxe = true ∧ t.ltxBits = some (lineBits bytes) := by
  refine ⟨_, ?_, rfl, decide_eq_true (frameTicks_drives s.cfg bytes), rfl⟩
  change Host.Outcome.next s.slotStarts = _
  rw [State.slotStarts_of_head access hround hlist hframe, hinputs]

/-- Settles O15: the frame of each kind of request, from its owner's state. -/
theorem transmitStartSendsTheHead : Obligations.TransmitStartSendsTheHead := by
  refine ⟨fun s rest o hlife hmute hround => ⟨fun hlist => ?_, fun n g hlist hslot => ?_, fun m hlist hlatch => ?_⟩,
    fun s hnone => congrArg Host.Outcome.next (State.slotStarts_of_none ?_)⟩
  · refine exec_transmitStart_sends ⟨hlife, hmute⟩ hround hlist ?_ rfl
    rw [State.requestFrame, State.beaconPayload, hlife]
    rfl
  · refine exec_transmitStart_sends ⟨hlife, hmute⟩ hround hlist ?_ ?_
    · rw [State.requestFrame, hslot, Option.map_some, edgePayload, edgeByte_eq]
      rfl
    · have hmarked : ({ s.inputs[n] with slot := s.inputs[n].slot.map fun g => { g with inFlight := true } } : Input) =
          { s.inputs[n] with slot := some { g with inFlight := true } } := by
        rw [hslot]
        rfl
      rw [← hmarked]
      rfl
  · refine exec_transmitStart_sends ⟨hlife, hmute⟩ hround hlist ?_ rfl
    rw [State.requestFrame, hlatch, Option.map_some, reportPayload]
    cases m.selector <;> rfl
  · rcases hnone with hne | hmuted | hempty | hround | ⟨e, o, hround, hother⟩
    · exact .inl hne
    · exact .inr (.inl hmuted)
    · exact .inr (.inr (.inl hempty))
    · exact .inr (.inr (.inr (by simp [State.atOwnSlot, hround])))
    · refine .inr (.inr (.inr (Bool.eq_false_iff.mpr fun hat => ?_)))
      obtain ⟨w, hw⟩ := State.atOwnSlot_iff.mp hat
      cases hround.symm.trans hw
      exact hother w rfl rfl

end Sys2Proof.Machine
end

section
/-! PROOF. The ends of the station's own frames (R150, R151, R120 to R122). -/

namespace Sys2Proof.Machine

/-- A flag other than ID_CLASH leaves mute. -/
theorem State.setFlag_mute {f : Flag} (s : State) (h : f ≠ .idClash) : (s.setFlag f).mute = s.mute :=
  State.mute_of_raised (s.setFlag_raised f h)

/-! ### What becomes of the capture slot (R120 to R122) -/

/-- Without a follow-on the slot empties. -/
theorem Input.followOnTakes_of_none {i : Input} (mark : Capture → Capture) (h : i.followOn = none) :
    i.followOnTakes mark = { i with slot := none } := by
  simp [Input.followOnTakes, h]

/-- A follow-on takes the slot. -/
theorem Input.followOnTakes_of_some {i : Input} {k : Capture} (mark : Capture → Capture) (h : i.followOn = some k) :
    i.followOnTakes mark = { i with slot := some ⟨mark k, false⟩, followOn := none } := by
  simp [Input.followOnTakes, h]

/-- The completion of an edge without a follow-on (R120). -/
theorem State.edgeCompletes_of_none {s : State} {n : InputId} (h : s.inputs[n].followOn = none) :
    s.edgeCompletes n = s.withInputs (s.inputs.set n { s.inputs[n] with slot := none }) := by
  rw [State.edgeCompletes, if_neg (by rw [h]; nofun), State.updateInput, Input.followOnTakes_of_none id h]

/-- The completion of an edge with a follow-on, which becomes the slot's content and requests anew (R120). -/
theorem State.edgeCompletes_of_some {s : State} {n : InputId} {k : Capture} (h : s.inputs[n].followOn = some k)
    (access : s.HasAccess) (hnew : Request.edge n ∉ s.line.txList) :
    s.edgeCompletes n =
      (s.withInputs (s.inputs.set n { s.inputs[n] with slot := some ⟨k, false⟩, followOn := none })).withLine
        { s.line with txList := s.line.txList ++ [.edge n] } := by
  have hmoved : s.updateInput n (Input.followOnTakes id) =
      s.withInputs (s.inputs.set n { s.inputs[n] with slot := some ⟨k, false⟩, followOn := none }) := by
    rw [State.updateInput, Input.followOnTakes_of_some id h]
    rfl
  rw [State.edgeCompletes, if_pos (by rw [h]; rfl), hmoved]
  exact State.join_of_access ⟨access.running, access.speaks⟩ hnew

/-- An abort below the eighth leaves an edge without a follow-on (R121). -/
theorem State.edgeRetried_of_none {s : State} {n : InputId} (h : s.inputs[n].followOn = none) :
    s.edgeRetried n = s := by
  rw [State.edgeRetried, if_neg (by rw [h]; nofun)]

/-- An abort below the eighth, with a follow-on: it takes the slot with its overrun set (R121). -/
theorem State.edgeRetried_of_some {s : State} {n : InputId} {k : Capture} (h : s.inputs[n].followOn = some k) :
    s.edgeRetried n = (s.withInputs (s.inputs.set n { s.inputs[n] with
      slot := some ⟨{ k with overrun := true }, false⟩, followOn := none })).setFlag .captureOverrun := by
  rw [State.edgeRetried, if_pos (by rw [h]; rfl), State.updateInput, Input.followOnTakes_of_some _ h]
  rfl

/-- The eighth abort of an edge without a follow-on (R122). -/
theorem State.edgeDropped_of_none {s : State} {n : InputId} (h : s.inputs[n].followOn = none) :
    s.edgeDropped n = s.withInputs (s.inputs.set n { s.inputs[n] with slot := none }) := by
  rw [State.edgeDropped, if_neg (by rw [h]; nofun), State.updateInput, Input.followOnTakes_of_none _ h]

/-- The eighth abort of an edge with a follow-on, which takes the slot with its overrun set and requests anew (R122). -/
theorem State.edgeDropped_of_some {s : State} {n : InputId} {k : Capture} (h : s.inputs[n].followOn = some k)
    (access : s.HasAccess) (hnew : Request.edge n ∉ s.line.txList) :
    s.edgeDropped n = ((s.withInputs (s.inputs.set n { s.inputs[n] with
      slot := some ⟨{ k with overrun := true }, false⟩, followOn := none })).setFlag .captureOverrun).withLine
        { s.line with txList := s.line.txList ++ [.edge n] } := by
  have hmoved : s.updateInput n (Input.followOnTakes Capture.overrunning) =
      s.withInputs (s.inputs.set n { s.inputs[n] with
        slot := some ⟨{ k with overrun := true }, false⟩, followOn := none }) := by
    rw [State.updateInput, Input.followOnTakes_of_some _ h]
    rfl
  have haccess : ((s.withInputs (s.inputs.set n { s.inputs[n] with
      slot := some ⟨{ k with overrun := true }, false⟩, followOn := none })).setFlag .captureOverrun).HasAccess :=
    ⟨access.running, (State.setFlag_mute (f := .captureOverrun) _ nofun).trans access.speaks⟩
  rw [State.edgeDropped, if_pos (by rw [h]; rfl), hmoved]
  exact State.join_of_access haccess hnew

/-! ### The completion (R151) -/

/-- Beacons withdrawn from a list. -/
theorem filter_not_beacon (l : List Request) :
    (l.filter fun x => !decide (x = .beacon)) = l.filter fun x => decide (x ≠ .beacon) := by
  simp only [ne_eq, decide_not]

/-- What a completion makes of the list (R151). -/
theorem State.headCompletes_of_list {s : State} {r : Request} {rest : List Request} (hlist : s.line.txList = r :: rest) :
    s.headCompletes = (s.withLine { s.line with
      txList := if r = .beacon then rest else rest.filter fun x => decide (x ≠ .beacon)
      attempts := 0 }).ownerCompletes r := by
  have hpop : s.popHead = s.withLine { s.line with txList := rest, attempts := 0 } := by
    rw [State.popHead, hlist]
    rfl
  rw [State.headCompletes, hlist]
  dsimp only
  rw [hpop, ← filter_not_beacon]
  cases r <;> rfl

/-- The own frame that completes (R151). -/
theorem exec_ownComplete_of_own {s : State} {x : Transmission} (hown : s.line.episode = .own x)
    (hdriving : x.driving = true) (hleft : x.left = 0) : exec .ownComplete s = .next s.completeEnd := by
  simp [exec, execOwnComplete, hown, hdriving, hleft]

/-- Settles O17: the completion by the kind of the head. -/
theorem ownFrameCompletes : Obligations.OwnFrameCompletes := by
  refine ⟨fun s x rest hown hdriving hleft => ?_, fun s hnot => ?_⟩
  · rw [exec_ownComplete_of_own hown hdriving hleft, State.completeEnd]
    dsimp only
    refine ⟨fun hlist => ?_, fun hlist => ?_, fun n hlist hfollow => ?_, fun n k hlist hnew hfollow hlife hmute => ?_⟩
    · rw [State.headCompletes_of_list (s := s.frameEnd) hlist]
      rfl
    · rw [State.headCompletes_of_list (s := s.frameEnd) hlist]
      rfl
    · rw [State.headCompletes_of_list (s := s.frameEnd) hlist, State.ownerCompletes,
        State.edgeCompletes_of_none (s := s.frameEnd.withLine _) hfollow]
      rfl
    · rw [State.headCompletes_of_list (s := s.frameEnd) hlist, State.ownerCompletes,
        State.edgeCompletes_of_some (s := s.frameEnd.withLine _) hfollow ⟨hlife, hmute⟩ fun hmem =>
          hnew (List.mem_filter.mp hmem).1]
      rfl
  · cases he : s.line.episode with
    | own x =>
      have hno : ¬(x.driving = true ∧ x.left = 0) := fun ⟨hdriving, hleft⟩ => by
        rcases hnot x he with hoff | hmore
        · rw [hdriving] at hoff
          cases hoff
        · exact hmore hleft
      simp [exec, execOwnComplete, he, hno]
    | _ => simp [exec, execOwnComplete, he]

/-! ### The abort (R150) -/

/-- The own frame that is aborted (R150). -/
theorem exec_ownAborted_of_own {s : State} {x : Transmission} (hown : s.line.episode = .own x)
    (hdriving : x.driving = false) : exec .ownAborted s = .next s.abortedEnd := by
  simp [exec, execOwnAborted, hown, hdriving]

/-- An abort below the eighth counts (R150). -/
theorem State.headAborts_of_retry {s : State} {r : Request} {rest : List Request} (hlist : s.line.txList = r :: rest)
    (hleft : s.line.attempts < 7) :
    s.headAborts = (s.withLine { s.line with attempts := s.line.attempts + 1 }).ownerRetries r := by
  rw [State.headAborts, hlist]
  exact if_pos hleft

/-- The eighth abort drops the head (R150). -/
theorem State.headAborts_of_drop {s : State} {r : Request} {rest : List Request} (hlist : s.line.txList = r :: rest)
    (hleft : 7 ≤ s.line.attempts) : s.headAborts =
      ((s.withLine { s.line with txList := rest, attempts := 0 }).setFlag .txDropped).ownerDrops r := by
  have hpop : s.popHead = s.withLine { s.line with txList := rest, attempts := 0 } := by
    rw [State.popHead, hlist]
    rfl
  rw [State.headAborts, hlist, ← hpop]
  exact if_neg (Nat.not_lt.mpr hleft)

/-- Settles O18: the abort by the attempts there have been and the kind of the head. -/
theorem ownAbortRetriesOrDrops : Obligations.OwnAbortRetriesOrDrops := by
  refine ⟨fun s x r rest hown hdriving hlist hleft => ?_, fun s x rest hown hdriving hleft => ?_, fun s hnot => ?_⟩
  · rw [exec_ownAborted_of_own hown hdriving, State.abortedEnd,
      State.headAborts_of_retry (s := s.frameEnd) hlist hleft]
    refine ⟨fun hkind => ?_, fun n k hr hfollow => ?_⟩
    · rcases hkind with rfl | rfl | ⟨n, rfl, hfollow⟩
      · rfl
      · rfl
      · rw [State.ownerRetries, State.edgeRetried_of_none (s := s.frameEnd.withLine _) hfollow]
        rfl
    · rw [hr, State.ownerRetries, State.edgeRetried_of_some (s := s.frameEnd.withLine _) hfollow]
      rfl
  · rw [exec_ownAborted_of_own hown hdriving, State.abortedEnd]
    refine ⟨fun hlist => ?_, fun hlist => ?_, fun n hlist hfollow => ?_, fun n k hlist hnew hfollow hlife hmute => ?_⟩
    · rw [State.headAborts_of_drop (s := s.frameEnd) hlist hleft]
      rfl
    · rw [State.headAborts_of_drop (s := s.frameEnd) hlist hleft]
      rfl
    · rw [State.headAborts_of_drop (s := s.frameEnd) hlist hleft, State.ownerDrops,
        State.edgeDropped_of_none (s := (s.frameEnd.withLine _).setFlag .txDropped) hfollow]
      rfl
    · have hmuted := State.setFlag_mute (f := .txDropped)
        (s.frameEnd.withLine { s.frameEnd.line with txList := rest, attempts := 0 }) nofun
      rw [State.headAborts_of_drop (s := s.frameEnd) hlist hleft, State.ownerDrops,
        State.edgeDropped_of_some (s := (s.frameEnd.withLine _).setFlag .txDropped) hfollow
          ⟨hlife, hmuted.trans hmute⟩ hnew]
      rfl
  · cases he : s.line.episode with
    | own x => simp [exec, execOwnAborted, he, hnot x he]
    | _ => simp [exec, execOwnAborted, he]

end Sys2Proof.Machine
end

section
/-! PROOF. Arrivals, the timebase, edge reports and offers (R5 to R16, R28 to R31, R41 to R56, R130 to R134). -/

namespace Sys2Proof.Machine

/-! ### Frames whose payload is not handed on (R29, R30) -/

/-- Outside RUNNING no payload is handed on (R30). -/
theorem State.handOn_of_not_running {s : State} {f : Frame} (handed : Frame → State → State)
    (h : s.loader.life ≠ .running) : s.handOn f handed = s := by
  simp [State.handOn, State.isRunning, h]

/-- A payload that is ignored leaves the state, handed on or not. -/
theorem State.handOn_ignorePayload (f : Frame) (s : State) : s.handOn f State.ignorePayload = s := by
  unfold State.handOn
  split <;> rfl

/-- The arrival leaves the loader. -/
theorem State.arrived_loader (f : Frame) (a : BusTime) (s : State) : (s.arrived f a).loader = s.loader :=
  State.stages_loader f _ s.frameEnd

/-- Settles O23: what is not handed on serves the stages of its arrival and nothing else. -/
theorem unhandedFramesServeTheStages : Obligations.UnhandedFramesServeTheStages := by
  refine ⟨fun c k f a s hframe harrives hnot => ?_, fun k f a s harrives => ⟨?_, ?_⟩⟩
  · rcases hnot with hlife | hunmatched
    · obtain ⟨handed, hexec⟩ := exec_frame_receives hframe
      rw [hexec, State.receive_of_arrives handed harrives,
        State.handOn_of_not_running handed (by rw [s.arrived_loader f a]; exact hlife)]
    · exact exec_of_unmatched hframe harrives hunmatched
  · change Host.Outcome.next (s.receive f State.ignorePayload) = _
    rw [State.receive_of_arrives _ harrives, State.handOn_ignorePayload]
  · change Host.Outcome.next (s.receive f State.ignorePayload) = _
    rw [State.receive_of_arrives _ harrives, State.handOn_ignorePayload]

/-! ### The timebase does not look at the line (R8 to R16) -/

/-- The state with other values outside and on the line. -/
def State.onLine (x : External) (l : Line) (s : State) : State := (s.withExt x).withLine l

/-- Delivery does not look at the line. -/
theorem State.deliverEntry_onLine (x : External) (l : Line) (late : Bool) (s : State) (e : CueEntry) :
    (s.onLine x l).deliverEntry late e = (s.deliverEntry late e).onLine x l := by
  unfold State.deliverEntry
  split <;> rfl

/-- The delivery of several entries does not look at the line. -/
theorem State.deliverEntries_onLine (x : External) (l : Line) (late : CueEntry → Bool) (es : List CueEntry)
    (s : State) : es.foldl (fun t e => t.deliverEntry (late e) e) (s.onLine x l) =
      (es.foldl (fun t e => t.deliverEntry (late e) e) s).onLine x l := by
  induction es generalizing s with
  | nil => rfl
  | cons e rest ih => rw [List.foldl_cons, List.foldl_cons, State.deliverEntry_onLine, ih]

/-- A flag on its cause does not look at the line. -/
theorem State.setFlagIf_onLine (x : External) (l : Line) (b : Bool) (f : Flag) (s : State) :
    (s.onLine x l).setFlagIf b f = (s.setFlagIf b f).onLine x l := by
  cases b <;> rfl

/-- A step notice does not look at the line. -/
theorem State.stepNotice_onLine (x : External) (l : Line) (before after : BusTime) (s : State) :
    (s.onLine x l).stepNotice before after = (s.stepNotice before after).onLine x l := by
  have hdelivered := State.deliverEntries_onLine x l (passedBy after) (s.queue.filter (reachedBy before after))
    (s.withQueue (s.queue.filter fun e => !reachedBy before after e))
  unfold State.stepNotice
  rw [← State.setFlagIf_onLine, ← hdelivered]
  rfl

/-- What the timebase does with a lead does not look at the line. -/
theorem State.takeLead_onLine (x : External) (l : Line) (lead : Int) (s : State) :
    (s.onLine x l).takeLead lead = (s.takeLead lead).onLine x l := by
  have hstep : ∀ u : State, (u.onLine x l).stepTime lead = (u.stepTime lead).onLine x l := fun u =>
    State.stepNotice_onLine x l _ _ (u.withTimebase
      { u.timebase with busTime := advance u.timebase.busTime lead })
  cases hsync : s.timebase.sync with
  | unsynced =>
    have hs : ∀ u : State, u.timebase.sync = .unsynced → u.takeLead lead = if 0 < lead then u.stepTime lead else u :=
      fun u hu => by rw [State.takeLead, hu]
    rw [hs _ hsync, hs (s.onLine x l) hsync, hstep]
    split <;> rfl
  | synced =>
    have hs : ∀ u : State, u.timebase.sync = .synced → u.takeLead lead =
        if lead ≤ (u.cfg.slack : Int) then u else if lead ≤ (u.cfg.stepLimit : Int) then u.ordinaryStep lead
        else u.farLead lead := fun u hu => by rw [State.takeLead, hu]
    have hordinary : (s.onLine x l).ordinaryStep lead = (s.ordinaryStep lead).onLine x l :=
      hstep (s.withTimebase { s.timebase with
        candidate := s.timebase.candidate.bind (reduceCandidate s.cfg.stepLimit lead) })
    have hfar : (s.onLine x l).farLead lead = (s.farLead lead).onLine x l := by
      have hcandidate : (s.onLine x l).timebase.candidate = s.timebase.candidate := rfl
      unfold State.farLead
      rw [hcandidate]
      cases s.timebase.candidate with
      | none => rfl
      | some c =>
        dsimp only
        have hlimit : (s.onLine x l).cfg.stepLimit = s.cfg.stepLimit := rfl
        rw [hlimit]
        split <;> rfl
    rw [hs _ hsync, hs (s.onLine x l) hsync, hordinary, hfar]
    have hcfg : (s.onLine x l).cfg = s.cfg := rfl
    rw [hcfg]
    split
    · rfl
    split <;> rfl

/-- Settles O24: the stages of an arrival, of which the timebase's is made of the same parts with the line quiet. -/
theorem arrivalStages : Obligations.ArrivalStages := by
  intro f a s lead
  have hlead : s.frameEnd.frameLead f a = lead := rfl
  have hframe : s.frameEnd = s.onLine { s.ext with carrier := false }
      { s.line with episode := .quiet, round := some Round.fresh } := rfl
  obtain ⟨t, k, q, v, u, htake⟩ := s.takeLead_footprint lead
  rw [State.arrived, show s.frameLead f a = lead from rfl, State.stages, hframe, State.takeLead_onLine, htake]
  rfl

/-! ### What the timebase does with a lead (R8 to R16) -/

/-- In UNSYNCED every positive lead is a step (R8). -/
theorem State.takeLead_of_unsynced {s : State} (lead : Int) (h : s.timebase.sync = .unsynced) :
    s.takeLead lead = if 0 < lead then s.stepTime lead else s := by
  rw [State.takeLead, h]

/-- In SYNCED the slack and the step limit divide the leads (R9). -/
theorem State.takeLead_of_synced {s : State} (lead : Int) (h : s.timebase.sync = .synced) :
    s.takeLead lead = if lead ≤ (s.cfg.slack : Int) then s
      else if lead ≤ (s.cfg.stepLimit : Int) then s.ordinaryStep lead else s.farLead lead := by
  rw [State.takeLead, h]

/-- Settles O25: small leads do nothing, and a far lead is held, confirmed or in conflict. -/
theorem smallAndFarLeads : Obligations.SmallAndFarLeads := by
  refine ⟨fun lead s hsmall => ?_, fun lead s hsync hslack hlimit => ?_⟩
  · rcases hsmall with ⟨hsync, hle⟩ | ⟨hsync, hle⟩
    · rw [State.takeLead_of_unsynced lead hsync, if_neg (Int.not_lt.mpr hle)]
    · rw [State.takeLead_of_synced lead hsync, if_pos hle]
  · rw [State.takeLead_of_synced lead hsync, if_neg (Int.not_le.mpr hslack), if_neg (Int.not_le.mpr hlimit),
      State.farLead]
    refine ⟨fun hnone => ?_, fun c hsome => ⟨fun hnear => ?_, fun hfar => ?_⟩⟩
    · rw [hnone]
      rfl
    · rw [hsome]
      dsimp only
      rw [if_pos hnear]
      rfl
    · rw [hsome]
      dsimp only
      rw [if_neg (Int.not_le.mpr hfar)]
      rfl

/-! ### Delivery, written out (R53 to R56) -/

/-- The delivery of an entry with the gaps of a configuration: to its channel, or discarded with STORE_PARITY. -/
def deliverUnder (p : Params) (late : CueEntry → Bool) (t : State) (e : CueEntry) : State :=
  if e.checkHolds then
    { t with
      channels := t.channels.set e.content.channel
        (t.channels[e.content.channel].takeFiring p.channels[e.content.channel].gap e.content.program (late e)) }
  else { t with faults := { t.faults with flags := t.faults.flags ||| flagBit .storeParity } }

/-- Under the station's own configuration that is its delivery. -/
theorem deliverUnder_eq {p : Params} {t : State} (late : CueEntry → Bool) (h : t.cfg = p) (e : CueEntry) :
    t.deliverEntry (late e) e = deliverUnder p late t e := by
  unfold State.deliverEntry deliverUnder
  rw [← h]
  rfl

/-- No delivery changes the configuration. -/
theorem deliverUnder_cfg (p : Params) (late : CueEntry → Bool) (t : State) (e : CueEntry) :
    (deliverUnder p late t e).cfg = t.cfg := by
  unfold deliverUnder
  split <;> rfl

/-- Several deliveries under the station's own configuration. -/
theorem foldl_deliverUnder {p : Params} (late : CueEntry → Bool) (es : List CueEntry) {t : State} (h : t.cfg = p) :
    es.foldl (fun t e => t.deliverEntry (late e) e) t = es.foldl (deliverUnder p late) t := by
  induction es generalizing t with
  | nil => rfl
  | cons e rest ih =>
    rw [List.foldl_cons, List.foldl_cons, deliverUnder_eq late h]
    exact ih ((deliverUnder_cfg p late t e).trans h)

/-- An entry that a step reaches, in signed differences (R56). -/
theorem reachedBy_eq (before after : BusTime) (e : CueEntry) : reachedBy before after e =
    (decide (0 < signedDiff e.fireTime before) && decide (signedDiff e.fireTime after ≤ 0)) := by
  have hnot : (!decide (0 < signedDiff e.fireTime after)) = decide (signedDiff e.fireTime after ≤ 0) := by
    rw [← decide_not]
    exact decide_eq_decide.mpr Int.not_lt
  rw [reachedBy, later, later, hnot]

/-- The leads that step bus time (R8, R9). -/
theorem State.takeLead_of_step {lead : Int} {s : State} (h : (s.timebase.sync = .unsynced ∧ 0 < lead) ∨
    (s.timebase.sync = .synced ∧ s.cfg.slack < lead ∧ lead ≤ s.cfg.stepLimit)) :
    s.takeLead lead = (s.withTimebase { s.timebase with
      candidate := if s.timebase.sync = .unsynced then s.timebase.candidate else
        s.timebase.candidate.bind (reduceCandidate s.cfg.stepLimit lead) }).stepTime lead := by
  rcases h with ⟨hsync, hpos⟩ | ⟨hsync, hslack, hlimit⟩
  · rw [State.takeLead_of_unsynced lead hsync, if_pos hpos, if_pos hsync]
    rfl
  · rw [State.takeLead_of_synced lead hsync, if_neg (Int.not_le.mpr hslack), if_pos hlimit, hsync]
    rfl

/-- Settles O26: a step moves bus time and delivers what it reaches, by the signed differences. -/
theorem stepsMoveTimeAndDeliver : Obligations.StepsMoveTimeAndDeliver := by
  intro lead s hstep after reached moved delivered
  have hreached : s.queue.filter (reachedBy s.timebase.busTime after) = reached :=
    List.filter_congr fun e _ => reachedBy_eq _ _ e
  have hrest : (s.queue.filter fun e => !reachedBy s.timebase.busTime after e) = moved.queue :=
    List.filter_congr fun e _ => congrArg Bool.not (reachedBy_eq _ _ e)
  have hdelivered : reached.foldl (fun t e => t.deliverEntry (passedBy after e) e) moved = delivered :=
    foldl_deliverUnder (p := s.cfg) (passedBy after) reached rfl
  have hlead : s.takeLead lead = delivered.setFlagIf (reached.any (passedBy after)) .lateFire := by
    rw [State.takeLead_of_step hstep, State.stepTime]
    change ((s.queue.filter (reachedBy s.timebase.busTime after)).foldl
      (fun t e => t.deliverEntry (passedBy after e) e) (State.withQueue _
        (s.queue.filter fun e => !reachedBy s.timebase.busTime after e))).setFlagIf
          ((s.queue.filter (reachedBy s.timebase.busTime after)).any (passedBy after)) .lateFire = _
    rw [hreached, hrest, ← hdelivered]
    rfl
  rw [hlead]
  rfl

/-! ### Edge reports and the bindings (R130 to R134) -/

/-- A source admits a sender (R131). -/
theorem Source.admits_iff {source : Source} {x : StationId} :
    source.admits x = true ↔ source = .any ∨ source = .station x := by
  cases source <;> simp [Source.admits]

/-- A direction is selected (R131). -/
theorem EdgeSelect.selects_iff {e : EdgeSelect} {rising : Bool} : e.selects rising = true ↔
    (e = .rise ∧ rising = true) ∨ (e = .fall ∧ rising = false) ∨ e = .both := by
  cases e <;> simp [EdgeSelect.selects]

/-- The four conditions of a match (R131). -/
theorem BindingContent.fits_iff {c : BindingContent} {x : StationId} {r : EdgeReport} : c.fits x r = true ↔
    (c.source = .any ∨ c.source = .station x) ∧ c.input = r.input ∧
      ((c.edge = .rise ∧ r.rising = true) ∨ (c.edge = .fall ∧ r.rising = false) ∨ c.edge = .both) ∧
      r.count.toNat % c.divider = c.phase := by
  rw [BindingContent.fits, Bool.and_eq_true, Bool.and_eq_true, Bool.and_eq_true, Source.admits_iff,
    EdgeSelect.selects_iff, decide_eq_true_eq, decide_eq_true_eq, and_assoc, and_assoc]

/-- Settles O29: a report of seven bytes is judged by every entry, each by its parity and its four conditions. -/
theorem edgeIsJudgedByTheBindings : Obligations.EdgeIsJudgedByTheBindings := by
  refine ⟨fun f a s h => ?_, fun x r s i => ⟨fun hnone => ?_, fun b hb hparity => ?_, fun b hb hparity => ?_⟩,
    fun b hb => ?_⟩
  · have hexec : exec (.edge f) s = .next ((s.arrived f a).takeEdgeReport f) :=
      congrArg Host.Outcome.next (State.receive_of_handedOn State.takeEdgeReport h)
    rw [hexec, State.takeEdgeReport]
    refine ⟨fun hlength => ?_, fun hlength => ?_⟩
    · rw [if_neg (by simp [hlength])]
      rfl
    · rw [if_pos hlength]
  · rw [State.judgeEntry, hnone]
  · rw [State.judgeEntry, hb]
    dsimp only
    rw [if_neg (by simp [hparity])]
    rfl
  · rw [State.judgeEntry, hb]
    dsimp only
    rw [if_pos hparity, ← BindingContent.fits_iff]
    exact ⟨fun hfits => if_pos hfits, fun hmiss => if_neg hmiss⟩
  · simp [Binding.parityHolds, hb]

/-! ### Offers (R41 to R52) -/

/-- A firing beyond the horizon is too far (R42). -/
theorem classOf_of_far {w : Nat} {d : Int} (h : 2 ^ 31 < d) : classOf w d = .tooFar := if_pos h

/-- A firing within the horizon is to come (R42). -/
theorem classOf_of_future {w : Nat} {d : Int} (h : 0 < d) (hfar : d ≤ 2 ^ 31) : classOf w d = .future := by
  have hnear : ¬(Config.horizon : Int) < d := Int.not_lt.mpr hfar
  rw [classOf, if_neg hnear, if_pos h]

/-- A firing at bus time is due (R42). -/
theorem classOf_zero (w : Nat) : classOf w 0 = .dueNow := rfl

/-- A firing within the late window is late (R42). -/
theorem classOf_of_late {w : Nat} {d : Int} (h : d < 0) (hstale : -(w : Int) ≤ d) : classOf w d = .late := by
  have hfar : ¬(Config.horizon : Int) < d := by simp only [Config.horizon]; omega
  rw [classOf, if_neg hfar, if_neg (by omega), if_neg (by omega), if_pos hstale]

/-- A firing before the late window is stale (R42). -/
theorem classOf_of_stale {w : Nat} {d : Int} (h : d < -(w : Int)) : classOf w d = .stale := by
  have hfar : ¬(Config.horizon : Int) < d := by simp only [Config.horizon]; omega
  rw [classOf, if_neg hfar, if_neg (by omega), if_neg (by omega), if_neg (by omega)]

/-- The signed difference of a firing and bus time. -/
def State.ahead (s : State) (x : Firing) : Int := signedDiff x.fireTime s.timebase.busTime

/-- A firing that passes the time check (R42). -/
def State.passes (s : State) (x : Firing) : Prop := -(s.cfg.lateWindow : Int) ≤ s.ahead x ∧ s.ahead x ≤ 2 ^ 31

/-- A firing that passes is to come, due or late, by the sign of the difference. -/
theorem State.timeClass_of_passes {s : State} {x : Firing} (h : s.passes x) : s.timeClass x.fireTime =
    if 0 < s.ahead x then .future else if s.ahead x < 0 then .late else .dueNow := by
  obtain ⟨hstale, hfar⟩ := h
  change classOf s.cfg.lateWindow (s.ahead x) = _
  split
  · rename_i hfuture
    exact classOf_of_future hfuture hfar
  split
  · rename_i hlate
    exact classOf_of_late hlate hstale
  · rw [show s.ahead x = 0 by omega]
    rfl

/-- What passes is not refused. -/
theorem State.refusal_of_passes {s : State} {x : Firing} (h : s.passes x) :
    (s.timeClass x.fireTime).refusal = none := by
  rw [State.timeClass_of_passes h]
  split
  · rfl
  split <;> rfl

/-- What passes is to come when the difference is positive. -/
theorem State.future_iff_of_passes {s : State} {x : Firing} (h : s.passes x) :
    s.timeClass x.fireTime = .future ↔ 0 < s.ahead x := by
  rw [State.timeClass_of_passes h]
  split
  · simp [*]
  split <;> simp [*]

/-- What passes is late when the difference is negative. -/
theorem State.late_iff_of_passes {s : State} {x : Firing} (h : s.passes x) :
    s.timeClass x.fireTime = .late ↔ s.ahead x < 0 := by
  rw [State.timeClass_of_passes h]
  split
  · simp only [reduceCtorEq, false_iff]
    omega
  split <;> simp [*]

/-- The first firing that is refused decides (R51). -/
theorem State.firstRefusal_of_split {s : State} {before after : List Firing} {x : Firing} {r : RejectReason}
    (hbefore : ∀ y ∈ before, s.passes y) (hx : (s.timeClass x.fireTime).refusal = some r) :
    s.firstRefusal (before ++ x :: after) = some r := by
  have hnone : before.findSome? (fun f => (s.timeClass f.fireTime).refusal) = none :=
    List.findSome?_eq_none_iff.mpr fun y hy => State.refusal_of_passes (hbefore y hy)
  rw [State.firstRefusal, List.findSome?_append, hnone, List.findSome?_cons, hx]
  rfl

/-- Nothing is refused when every firing passes. -/
theorem State.firstRefusal_of_passes {s : State} {fs : List Firing} (h : ∀ x ∈ fs, s.passes x) :
    s.firstRefusal fs = none :=
  List.findSome?_eq_none_iff.mpr fun x hx => State.refusal_of_passes (h x hx)

/-- The firings of an offer that are stored, when every firing passes (R42). -/
theorem State.futures_of_passes {s : State} {fs : List Firing} (h : ∀ x ∈ fs, s.passes x) :
    s.futures fs = fs.filter fun x => decide (0 < s.ahead x) :=
  List.filter_congr fun x hx => decide_eq_decide.mpr (State.future_iff_of_passes (h x hx))

/-- The firings of an offer that are delivered at once, when every firing passes (R43). -/
theorem State.immediates_of_passes {s : State} {fs : List Firing} (h : ∀ x ∈ fs, s.passes x) :
    s.immediates fs = fs.filter fun x => decide (s.ahead x ≤ 0) :=
  List.filter_congr fun x hx => decide_eq_decide.mpr
    ((not_congr (State.future_iff_of_passes (h x hx))).trans Int.not_lt)

/-- Whether an offer has a late firing, when every firing passes (R43). -/
theorem State.anyLate_of_passes {s : State} {fs : List Firing} (h : ∀ x ∈ fs, s.passes x) :
    (fs.any fun x => decide (s.timeClass x.fireTime = .late)) = fs.any fun x => decide (s.ahead x < 0) := by
  rw [Bool.eq_iff_iff, List.any_eq_true, List.any_eq_true]
  exact exists_congr fun x => and_congr_right fun hx => by
    rw [decide_eq_true_eq, decide_eq_true_eq, State.late_iff_of_passes (h x hx)]

/-- The immediate firings of an offer are delivered as bus time stands, though each delivery is a state of its own. -/
theorem State.deliverNow_foldl {s t : State} (l : List Firing) (h : ∀ x ∈ l, s.passes x) (time : t.timebase = s.timebase)
    (cfg : t.cfg = s.cfg) : l.foldl State.deliverNow t =
      l.foldl (fun t x => t.deliver x.content.channel x.content.program (decide (s.ahead x < 0))) t := by
  induction l generalizing t with
  | nil => rfl
  | cons x rest ih =>
    have hclass : t.timeClass x.fireTime = s.timeClass x.fireTime := by rw [State.timeClass, time, cfg]; rfl
    have hlate : decide (t.timeClass x.fireTime = .late) = decide (s.ahead x < 0) := by
      rw [hclass]
      exact decide_eq_decide.mpr (State.late_iff_of_passes (h x (by simp)))
    rw [List.foldl_cons, List.foldl_cons, State.deliverNow, hlate]
    exact ih (fun y hy => h y (by simp [hy])) time cfg

/-- An accepted offer, by the differences (R43, R49). -/
theorem State.acceptOffer_of_passes {s : State} {fs : List Firing} (h : ∀ x ∈ fs, s.passes x) :
    s.acceptOffer fs = ((fs.filter fun x => decide (s.ahead x ≤ 0)).foldl
      (fun t x => t.deliver x.content.channel x.content.program (decide (s.ahead x < 0)))
      (s.withQueue (insertAll (fs.filter fun x => decide (0 < s.ahead x))
        (s.queue.filter fun e => !replacedBy fs e)))).setFlagIf (fs.any fun x => decide (s.ahead x < 0)) .lateFire := by
  rw [State.acceptOffer, State.futures_of_passes h, State.immediates_of_passes h, State.anyLate_of_passes h]
  exact congrArg _ (State.deliverNow_foldl _ (fun x hx => h x (List.mem_filter.mp hx).1) rfl rfl)

/-- Whether an offer that passes exceeds the queue (R48). -/
theorem State.offerOverflows_iff_of_passes {s : State} {fs : List Firing} (h : ∀ x ∈ fs, s.passes x) :
    s.offerOverflows fs = true ↔ 32 < (fs.filter fun x => decide (0 < s.ahead x)).length +
      (s.queue.filter fun e => !replacedBy fs e).length := by
  rw [State.offerOverflows, State.futures_of_passes h, decide_eq_true_eq]

/-- Settles O30: an offer is refused by its first firing that fails, or for want of room, or takes effect whole. -/
theorem offerIsDecidedWhole : Obligations.OfferIsDecidedWhole := by
  intro fs s d late passes kept future done
  refine ⟨fun before x after hfs hbefore => ⟨fun hfar => ?_, fun hstale => ?_⟩, fun hpass hfull => ?_,
    fun hpass hfits => ?_⟩
  · have hrefused : (s.timeClass x.fireTime).refusal = some .tooFar := by
      rw [State.timeClass, classOf_of_far hfar]
      rfl
    rw [State.offer, hfs, State.firstRefusal_of_split hbefore hrefused]
    rfl
  · have hrefused : (s.timeClass x.fireTime).refusal = some .stale := by
      rw [State.timeClass, classOf_of_stale hstale]
      rfl
    rw [State.offer, hfs, State.firstRefusal_of_split hbefore hrefused]
    rfl
  · rw [State.offer, State.firstRefusal_of_passes hpass]
    dsimp only
    rw [if_pos ((State.offerOverflows_iff_of_passes hpass).mpr hfull)]
    rfl
  · rw [State.offer, State.firstRefusal_of_passes hpass]
    dsimp only
    rw [if_neg fun hover => Nat.not_lt.mpr hfits ((State.offerOverflows_iff_of_passes hpass).mp hover),
      State.acceptOffer_of_passes hpass]
    refine ⟨fun hnone => ?_, fun hsome => ?_⟩
    · rw [show (fs.any fun x => decide (s.ahead x < 0)) = false from hnone]
      rfl
    · rw [show (fs.any fun x => decide (s.ahead x < 0)) = true from hsome]
      rfl

end Sys2Proof.Machine
end

section
/-! PROOF. The payloads for the queue, the staging slots and the latch: SCHEDULE, STAGE, RELEASE, CANCEL and PROBE
(R31, R37 to R49, R58, R88, R102 to R108, R171). -/

namespace Sys2Proof.Machine

/-! ### What an arrival leaves of the station -/

@[simp] theorem State.arrived_pending (f : Frame) (a : BusTime) (s : State) : (s.arrived f a).pending = s.pending := by
  rw [arrivalStages f a s]

@[simp] theorem State.arrived_scopeLeft (f : Frame) (a : BusTime) (s : State) :
    (s.arrived f a).scopeLeft = s.scopeLeft := by
  rw [arrivalStages f a s]

@[simp] theorem State.arrived_staging (f : Frame) (a : BusTime) (s : State) : (s.arrived f a).staging = s.staging := by
  rw [arrivalStages f a s]

@[simp] theorem State.arrived_txList (f : Frame) (a : BusTime) (s : State) :
    (s.arrived f a).line.txList = s.line.txList := by
  rw [arrivalStages f a s]

/-- An arrival at most raises flags other than ID_CLASH. -/
theorem State.arrived_raised (f : Frame) (a : BusTime) (s : State) : s.faults.Raised (s.arrived f a).faults :=
  State.takeLead_raised (s.frameLead f a) s.frameEnd

/-- An arrival leaves mute. -/
theorem State.arrived_mute (f : Frame) (a : BusTime) (s : State) : (s.arrived f a).mute = s.mute :=
  State.mute_of_raised (s.arrived_raised f a)

/-- A handed-on payload at the state after the stages. -/
theorem exec_of_handedOn {c : Instr} {f : Frame} {a : BusTime} {s : State} {handed : Frame → State → State}
    (hexec : exec c s = .next (s.receive f handed)) (h : HandedOn f a s) :
    exec c s = .next (handed f (s.arrived f a)) := by
  rw [hexec, State.receive_of_handedOn handed h]

/-! ### Insertion and replacement (R37 to R39) -/

/-- An entry is inserted behind what is not later and before what is later (R38). -/
theorem insertEntry_eq_filter (e : CueEntry) (q : List CueEntry)
    (h : q.Pairwise fun a b => later a.fireTime e.fireTime = true → later b.fireTime e.fireTime = true) :
    insertEntry e q = (q.filter fun y => !later y.fireTime e.fireTime) ++
      e :: q.filter fun y => later y.fireTime e.fireTime := by
  induction q with
  | nil => rfl
  | cons x rest ih =>
    obtain ⟨hfirst, hrest⟩ := List.pairwise_cons.mp h
    unfold insertEntry
    split
    · rename_i hlater
      have hall : ∀ y ∈ rest, later y.fireTime e.fireTime = true := fun y hy => hfirst y hy hlater
      rw [List.filter_cons_of_neg (p := fun y : CueEntry => !later y.fireTime e.fireTime) (by simp [hlater]),
        List.filter_cons_of_pos (p := fun y : CueEntry => later y.fireTime e.fireTime) hlater,
        List.filter_eq_nil_iff.mpr fun y hy => by simp [hall y hy], List.filter_eq_self.mpr hall]
      rfl
    · rename_i hnot
      rw [List.filter_cons_of_pos (p := fun y : CueEntry => !later y.fireTime e.fireTime) (by simp [hnot]),
        List.filter_cons_of_neg (p := fun y : CueEntry => later y.fireTime e.fireTime) hnot, ih hrest]
      rfl

/-- The key of a message (R39). -/
theorem CueContent.key_eq_some_iff {c : CueContent} {k : StationId × Byte × ChannelId} : c.key = some k ↔
    c.tag ≠ 0 ∧ c.origin = .message k.1 ∧ c.tag = k.2.1 ∧ c.channel = k.2.2 := by
  obtain ⟨x, tag, channel⟩ := k
  unfold CueContent.key
  cases c.origin with
  | binding i => simp
  | message sender =>
    simp

/-- An entry is replaced by a firing of the same sender, tag and channel (R39). -/
theorem replacedBy_iff {fs : List Firing} {e : CueEntry} : replacedBy fs e = true ↔
    e.content.tag ≠ 0 ∧ ∃ sender, e.content.origin = .message sender ∧
      ∃ y ∈ fs, y.content.origin = .message sender ∧ y.content.tag = e.content.tag ∧
        y.content.channel = e.content.channel := by
  unfold replacedBy
  rw [Bool.and_eq_true, List.any_eq_true, Option.isSome_iff_exists]
  constructor
  · rintro ⟨⟨⟨x, tag, channel⟩, hkey⟩, y, hy, hsame⟩
    rw [decide_eq_true_eq, hkey, CueContent.key_eq_some_iff] at hsame
    rw [CueContent.key_eq_some_iff] at hkey
    obtain ⟨htag, horigin, rfl, rfl⟩ := hkey
    obtain ⟨-, hyorigin, hytag, hychannel⟩ := hsame
    exact ⟨htag, x, horigin, y, hy, hyorigin, hytag, hychannel⟩
  · rintro ⟨htag, x, horigin, y, hy, hyorigin, hytag, hychannel⟩
    have hkey : e.content.key = some (x, e.content.tag, e.content.channel) :=
      CueContent.key_eq_some_iff.mpr ⟨htag, horigin, rfl, rfl⟩
    refine ⟨⟨_, hkey⟩, y, hy, ?_⟩
    rw [decide_eq_true_eq, hkey, CueContent.key_eq_some_iff]
    exact ⟨hytag ▸ htag, hyorigin, hytag, hychannel⟩

/-- Settles O31: insertion splits an ordered queue, and replacement is by key. -/
theorem entriesAreInsertedInOrder : Obligations.EntriesAreInsertedInOrder :=
  fun x _ q _ => ⟨insertEntry_eq_filter x.toEntry q, fun hcheck => by simp [CueEntry.checkHolds, hcheck], rfl,
    replacedBy_iff⟩

/-! ### Channel sets (R47, R102) -/

/-- A set names a disabled channel when not all its channels are enabled. -/
theorem State.namesDisabled_iff {s : State} {set : Byte} : s.namesDisabled set = true ↔
    ¬∀ c : ChannelId, set.getLsbD c.val = true → s.cfg.channels[c].enabled = true := by
  simp [State.namesDisabled, channelsOf]

/-! ### SCHEDULE (R31, R46 to R49) -/

/-- The form of a SCHEDULE (R31). -/
theorem scheduleFormOk_iff {p : List Byte} :
    scheduleFormOk p = true ↔ p.length = 17 ∧ (byteAt p 2 = 0 ∨ byteAt p 2 = 1) := by
  simp [scheduleFormOk]

/-- A SCHEDULE that passes the checks of its form, its channels and its program, by its time (R46). -/
theorem State.takeSchedule_of_program {s : State} {f : Frame} {p : Program} (hform : scheduleFormOk f.payload = true)
    (hchannels : s.namesDisabled (byteAt f.payload 0) = false) (hprogram : (rawProgramAt f.payload 8).judge = some p) :
    s.takeSchedule f = match (s.timeClass (scheduleFireTime f)).refusal with
      | some reason => s.reject reason
      | none => s.offer (scheduleFirings f p) := by
  unfold State.takeSchedule
  rw [if_neg (by simp [hform]), if_neg (by simp [hchannels])]
  generalize (rawProgramAt f.payload 8).judge = judged at hprogram ⊢
  subst hprogram
  rfl

/-- Settles O32: the checks of a SCHEDULE in their order. -/
theorem scheduleIsValidatedInOrder : Obligations.ScheduleIsValidatedInOrder := by
  intro f a s h u form enabled fire d
  have hexec : exec (.schedule f) s = .next (u.takeSchedule f) := exec_of_handedOn rfl h
  have hform : scheduleFormOk f.payload = true ↔ form := scheduleFormOk_iff
  have hchannels : u.namesDisabled (byteAt f.payload 0) = true ↔ ¬enabled := by
    rw [State.namesDisabled_iff, s.arrived_cfg f a]
  have hclass : u.timeClass (scheduleFireTime f) = classOf s.cfg.lateWindow d := by
    rw [State.timeClass, s.arrived_cfg f a]
    rfl
  refine ⟨fun hbad => ?_, fun hgood hdisabled => ?_, fun hgood henabled hnone => ?_,
    fun p hgood henabled hprogram => ?_⟩
  · rw [hexec, State.takeSchedule, if_pos (by simp [mt hform.mp hbad])]
    rfl
  · rw [hexec, State.takeSchedule, if_neg (by simp [hform.mpr hgood]), if_pos (hchannels.mpr hdisabled)]
    rfl
  · rw [hexec, State.takeSchedule, if_neg (by simp [hform.mpr hgood]), if_neg fun hd => hchannels.mp hd henabled, hnone]
    rfl
  · have hnames : u.namesDisabled (byteAt f.payload 0) = false :=
      Bool.eq_false_iff.mpr fun hd => hchannels.mp hd henabled
    rw [hexec, State.takeSchedule_of_program (hform.mpr hgood) hnames hprogram, hclass]
    refine ⟨fun hfar => ?_, fun hstale => ?_, fun hlate hnear => ?_⟩
    · rw [classOf_of_far hfar]
      rfl
    · rw [classOf_of_stale hstale]
      rfl
    · have hnone : (classOf s.cfg.lateWindow d).refusal = none := by
        rcases lt_trichotomy 0 d with hfuture | hdue | hpast
        · rw [classOf_of_future hfuture hnear]
          rfl
        · rw [← hdue]
          rfl
        · rw [classOf_of_late hpast hlate]
          rfl
      rw [hnone]
      rfl

/-! ### STAGE and RELEASE (R102 to R105) -/

/-- Settles O33: the checks of a STAGE in their order, and the slots it fills. -/
theorem stageFillsItsSlots : Obligations.StageFillsItsSlots := by
  intro f a s h u enabled
  have hexec : exec (.stage f) s = .next (u.takeStage f) := exec_of_handedOn rfl h
  have hchannels : u.namesDisabled (byteAt f.payload 0) = true ↔ ¬enabled := by
    rw [State.namesDisabled_iff, s.arrived_cfg f a]
  rw [hexec, State.takeStage]
  refine ⟨fun hlength => ?_, fun hlength => ?_⟩
  · rw [if_pos hlength]
    rfl
  rw [if_neg (by simp [hlength]), State.judgeStage]
  refine ⟨fun hdisabled => ?_, fun henabled hnone => ?_, fun p henabled hprogram => ?_⟩
  · rw [if_pos (hchannels.mpr hdisabled)]
    rfl
  · rw [if_neg fun hd => hchannels.mp hd henabled, hnone]
    rfl
  rw [if_neg fun hd => hchannels.mp hd henabled, hprogram]
  refine ⟨fun htag => ?_, fun htag hfar => ?_, fun htag hnear => ⟨(u.fillSlots f p).staging, ?_, fun c hc => ?_,
    fun c hc => ?_⟩⟩
  · dsimp only
    rw [if_pos htag]
    rfl
  · dsimp only
    rw [if_neg htag, if_pos (show Config.horizon < _ from hfar)]
    rfl
  · dsimp only
    rw [if_neg htag, if_neg (Nat.not_lt.mpr hnear)]
    rfl
  · rw [State.fillSlots_staged, if_pos hc, s.arrived_cfg f a]
  · rw [State.fillSlots_staged, if_neg fun hset => Bool.false_ne_true (hc.symm.trans hset), s.arrived_staging]

/-- The tagged slots of a RELEASE, with their channels (R104). -/
def State.taggedSlots (tag : Byte) (s : State) : List (ChannelId × Staged) :=
  (List.finRange 8).filterMap fun c => match s.staging[c] with
    | some g => if g.tag = tag then some (c, g) else none
    | none => none

/-- An arrival leaves the tagged slots. -/
theorem State.arrived_taggedSlots (tag : Byte) (f : Frame) (a : BusTime) (s : State) :
    (s.arrived f a).taggedSlots tag = s.taggedSlots tag := by
  simp only [State.taggedSlots, State.arrived_staging]

/-- A RELEASE collects the firings of the tagged slots (R105). -/
theorem State.collected_eq (tag : Byte) (stamp : BusTime) (s : State) :
    s.collected tag stamp = (s.taggedSlots tag).map fun cg => releaseFiring stamp cg.1 cg.2 := by
  rw [State.collected, State.taggedSlots, List.map_filterMap]
  refine List.filterMap_congr fun c _ => ?_
  cases s.staging[c] with
  | none => rfl
  | some g =>
    by_cases htag : g.tag = tag
    · simp [carriesTag, htag]
    · simp [carriesTag, htag]

/-- A slot carries a tag when its firing does (R104). -/
theorem carriesTag_iff {tag : Byte} {g : Option Staged} : carriesTag tag g = true ↔ g.map Staged.tag = some tag := by
  cases g <;> simp [carriesTag]

/-- Settles O34: a RELEASE offers the firings of the tagged slots, which it empties. -/
theorem releaseOffersTheTaggedSlots : Obligations.ReleaseOffersTheTaggedSlots := by
  intro f a s h u tag tagged
  have hexec : exec (.release f) s = .next (u.takeRelease f) := exec_of_handedOn rfl h
  have hcollected : u.collected tag f.stamp = tagged.map fun cg => releaseFiring f.stamp cg.1 cg.2 :=
    (State.collected_eq tag f.stamp u).trans (congrArg (List.map _) (State.arrived_taggedSlots tag f a s))
  rw [hexec, State.takeRelease]
  refine ⟨fun hlength => ?_, fun hlength hnone => ?_, fun hlength hsome => ?_⟩
  · rw [if_pos hlength]
    rfl
  · rw [if_neg (by simp [hlength]), hcollected, hnone]
    rfl
  · refine ⟨(u.emptySlots tag).staging, ?_, fun c => ?_⟩
    · rw [if_neg (by simp [hlength]), hcollected]
      obtain ⟨first, rest, hcons⟩ := List.exists_cons_of_ne_nil hsome
      rw [hcons]
      rfl
    · rw [State.emptySlots_staged, s.arrived_staging]
      simp only [carriesTag_iff]

end Sys2Proof.Machine
end

section
/-! PROOF. CANCEL by its scopes, and the PROBE that fills the latch (R58, R59, R88, R95, R108, R171, R172). -/

namespace Sys2Proof.Machine

/-! ### The scopes of a CANCEL (R58, R88, R108) -/

/-- Queue scope that does not wait removes entries at once (R58). -/
theorem State.handScope_queue {waits : Option CancelScope} (hacts : waits ≠ some .queue) (b : Bool)
    (x : StationId) (set tag : Byte) (s : State) : s.handScope b waits ⟨.queue, x, set, tag⟩ =
      s.withQueue (s.queue.filter fun e => !(b && cancelsEntry x set tag e)) := by
  cases b with
  | true => simp [State.handScope, hacts, State.cancelScope, State.cancelQueue]
  | false =>
    simp only [State.handScope, Bool.false_and, Bool.not_false, List.filter_true]
    rfl

/-- The channels that CANCEL in output scope leaves, by its scope bit and its set (R88). -/
def State.Stopped (b : Bool) (set : Byte) (s : State) (v : Vector Channel 8) : Prop :=
  ∀ i : ChannelId, v[i] = if b = true ∧ set.getLsbD i.val = true then s.channels[i].endWork (s.gap i)
    else s.channels[i]

/-- Output scope that does not wait ends the work of its channels at once (R88). -/
theorem State.handScope_output {waits : Option CancelScope} (hacts : waits ≠ some .output) (b : Bool)
    (x : StationId) (set tag : Byte) (s : State) : ∃ v, s.handScope b waits ⟨.output, x, set, tag⟩ =
      s.withChannels v ∧ s.Stopped b set v := by
  cases b with
  | true =>
    refine ⟨(s.cancelOutput set).channels, ?_, fun i => ?_⟩
    · simp only [State.handScope, if_true, if_neg hacts]
      rfl
    · rw [State.cancelOutput_channel]
      simp
  | false => exact ⟨s.channels, rfl, fun i => by simp⟩

/-- A scope that waits is kept for the end of its time (R59, R95). -/
theorem State.handScope_of_waits (l : ScopeLeft) (s : State) :
    s.handScope true (some l.scope) l = s.withScopeLeft (some l) := by
  simp [State.handScope]

/-- The slots that CANCEL in staged scope leaves, by its scope bit and its set (R108). -/
def State.Emptied (b : Bool) (x : StationId) (set tag : Byte) (s : State) (g : Vector (Option Staged) 8) : Prop :=
  ∀ i : ChannelId, g[i] = if b = true ∧ set.getLsbD i.val = true then
    s.staging[i].filter fun k => !cancelsStaged x tag k else s.staging[i]

/-- Staged scope (R108). -/
theorem State.stagedScope_eq (b : Bool) (x : StationId) (set tag : Byte) (s : State) :
    ∃ g, (if b then s.cancelStaged x set tag else s) = s.withStaging g ∧ s.Emptied b x set tag g := by
  cases b with
  | true => exact ⟨(s.cancelStaged x set tag).staging, rfl, fun i => (mapFamily_getElem _ _ i).trans (by simp)⟩
  | false => exact ⟨s.staging, rfl, fun i => by simp⟩

/-- A scope waits only of a CANCEL with both scopes, while the delivery of its time does (R59, R95). -/
theorem State.waitingScope_some {s : State} {scope : Byte} {k : CancelScope} (h : s.waitingScope scope = some k) :
    scope.getLsbD 0 = true ∧ scope.getLsbD 2 = true ∧ s.scopeLeft = none ∧ .dueDelivery ∈ s.pending := by
  by_contra hnot
  rw [State.waitingScope, if_neg hnot] at h
  exact nomatch h

/-- How the queue and output scopes of a CANCEL come out: both act, or one of them waits (R59, R95). -/
inductive State.ScopesDone (f : Frame) (s : State) (q : List CueEntry) (v : Vector Channel 8)
    (l : Option ScopeLeft) : Prop
  | both (hq : q = s.queue.filter fun e => !((byteAt f.payload 2).getLsbD 0 &&
        cancelsEntry f.sender (byteAt f.payload 0) (byteAt f.payload 1) e))
      (hv : s.Stopped ((byteAt f.payload 2).getLsbD 2) (byteAt f.payload 0) v) (hl : l = s.scopeLeft)
  | queueWaits (waits : s.waitingScope (byteAt f.payload 2) = some .queue) (hq : q = s.queue)
      (hv : s.Stopped ((byteAt f.payload 2).getLsbD 2) (byteAt f.payload 0) v)
      (hl : l = some ⟨.queue, f.sender, byteAt f.payload 0, byteAt f.payload 1⟩)
  | outputWaits (waits : s.waitingScope (byteAt f.payload 2) = some .output)
      (hq : q = s.queue.filter fun e => !((byteAt f.payload 2).getLsbD 0 &&
        cancelsEntry f.sender (byteAt f.payload 0) (byteAt f.payload 1) e))
      (hv : v = s.channels) (hl : l = some ⟨.output, f.sender, byteAt f.payload 0, byteAt f.payload 1⟩)

/-- A CANCEL of 3 bytes acts in each of its scopes (R58, R88, R108). -/
theorem State.takeCancel_of_length {f : Frame} {s : State} (hlength : f.payload.length = 3) :
    ∃ q g v l, s.takeCancel f = (((s.withQueue q).withStaging g).withChannels v).withScopeLeft l ∧
      s.Emptied ((byteAt f.payload 2).getLsbD 1) f.sender (byteAt f.payload 0) (byteAt f.payload 1) g ∧
      s.ScopesDone f q v l := by
  rw [State.takeCancel, if_neg (by simp [hlength])]
  dsimp only
  cases hwaits : s.waitingScope (byteAt f.payload 2) with
  | none =>
    rw [State.handScope_queue (waits := none) nofun]
    obtain ⟨g, hg, hempty⟩ := State.stagedScope_eq ((byteAt f.payload 2).getLsbD 1) f.sender (byteAt f.payload 0)
      (byteAt f.payload 1) (s.withQueue (s.queue.filter fun e => !((byteAt f.payload 2).getLsbD 0 &&
        cancelsEntry f.sender (byteAt f.payload 0) (byteAt f.payload 1) e)))
    rw [hg]
    obtain ⟨v, hv, hstop⟩ := State.handScope_output (waits := none) nofun ((byteAt f.payload 2).getLsbD 2) f.sender
      (byteAt f.payload 0) (byteAt f.payload 1) (State.withStaging _ g)
    rw [hv]
    exact ⟨_, g, v, s.scopeLeft, rfl, hempty, .both rfl hstop rfl⟩
  | some k =>
    obtain ⟨hqueue, houtput, -, -⟩ := State.waitingScope_some hwaits
    cases k with
    | queue =>
      rw [hqueue, State.handScope_of_waits ⟨.queue, f.sender, byteAt f.payload 0, byteAt f.payload 1⟩]
      obtain ⟨g, hg, hempty⟩ := State.stagedScope_eq ((byteAt f.payload 2).getLsbD 1) f.sender (byteAt f.payload 0)
        (byteAt f.payload 1) (s.withScopeLeft (some ⟨.queue, f.sender, byteAt f.payload 0, byteAt f.payload 1⟩))
      rw [hg]
      obtain ⟨v, hv, hstop⟩ := State.handScope_output (waits := some .queue) nofun ((byteAt f.payload 2).getLsbD 2)
        f.sender (byteAt f.payload 0) (byteAt f.payload 1) (State.withStaging _ g)
      rw [hv]
      exact ⟨s.queue, g, v, _, rfl, hempty, .queueWaits hwaits rfl hstop rfl⟩
    | output =>
      rw [State.handScope_queue (waits := some .output) nofun]
      obtain ⟨g, hg, hempty⟩ := State.stagedScope_eq ((byteAt f.payload 2).getLsbD 1) f.sender (byteAt f.payload 0)
        (byteAt f.payload 1) (s.withQueue (s.queue.filter fun e => !((byteAt f.payload 2).getLsbD 0 &&
          cancelsEntry f.sender (byteAt f.payload 0) (byteAt f.payload 1) e)))
      rw [hg, houtput, State.handScope_of_waits ⟨.output, f.sender, byteAt f.payload 0, byteAt f.payload 1⟩]
      exact ⟨_, g, s.channels, _, rfl, hempty, .outputWaits hwaits rfl rfl rfl⟩

/-- The ending of a channel's work, by its phase (R79, R88). -/
theorem Channel.endWork_eq (g : Nat) (c : Channel) : c.endWork g = match c.phase with
    | .idle => c
    | .recover _ => { c with waiting := none }
    | .on _ => { c with phase := .recover g, waiting := none }
    | .off _ => { c with phase := .recover g, waiting := none }
    | .hold => { c with phase := .recover g, waiting := none } := by
  rw [Channel.endWork]
  cases c.phase <;> rfl

/-- Settles O35: a CANCEL acts in each scope of its bits, one of which can wait for the delivery. -/
theorem cancelActsByItsScopes : Obligations.CancelActsByItsScopes := by
  intro c f a s hc h u set tag scope apart removed stopped
  have hexec : exec c s = .next (u.takeCancel f) := by
    rcases List.mem_cons.mp hc with rfl | hc
    · exact exec_of_handedOn rfl h
    rcases List.mem_cons.mp hc with rfl | hc
    · exact exec_of_handedOn rfl h
    rcases List.mem_cons.mp hc with rfl | hc
    · exact exec_of_handedOn rfl h
    · exact List.mem_singleton.mp hc ▸ exec_of_handedOn rfl h
  have happart {k : CancelScope} (hwaits : u.waitingScope scope = some k) : apart := by
    obtain ⟨hqueue, houtput, hleft, hdue⟩ := State.waitingScope_some hwaits
    exact ⟨hqueue, houtput, s.arrived_scopeLeft f a ▸ hleft, s.arrived_pending f a ▸ hdue⟩
  have hremoved : removed = u.queue.filter fun e => !(scope.getLsbD 0 && cancelsEntry f.sender set tag e) := by
    simp only [removed, cancelsEntry, Bool.and_assoc]
  have hstopped {v : Vector Channel 8} (hv : u.Stopped (scope.getLsbD 2) set v) : stopped v := by
    intro i
    rw [hv i]
    by_cases hset : scope.getLsbD 2 = true ∧ set.getLsbD i.val = true
    · rw [if_pos hset, if_pos hset, State.gap, s.arrived_cfg f a]
      exact Channel.endWork_eq _ _
    · rw [if_neg hset, if_neg hset]
  refine ⟨fun hlength => ?_, fun hlength => ?_⟩
  · rw [hexec, State.takeCancel, if_pos hlength]
    rfl
  obtain ⟨q, g, v, l, htake, hempty, hdone⟩ := State.takeCancel_of_length (s := u) hlength
  refine ⟨q, g, v, l, by rw [hexec, htake]; rfl, fun i => ?_, ?_⟩
  · rw [hempty i, s.arrived_staging]
    rfl
  · cases hdone with
    | both hq hv hl => exact .inl ⟨hq.trans hremoved.symm, hstopped hv, hl.trans (s.arrived_scopeLeft f a)⟩
    | queueWaits hwaits hq hv hl => exact .inr (.inl ⟨happart hwaits, hq, hstopped hv, hl⟩)
    | outputWaits hwaits hq hv hl => exact .inr (.inr ⟨happart hwaits, hq.trans hremoved.symm, hv, hl⟩)

/-! ### PROBE (R171, R172) -/

/-- The code of a PROBE that names a selector (R171, R174). -/
theorem selectorOf_eq_some {code : Byte} {sel : Selector} (h : code = match sel with
    | .status => 1 | .peers => 2 | .leadsLo => 3 | .leadsHi => 4 | .queue => 5) :
    selectorOf code = some sel := by
  subst h
  cases sel <;> rfl

/-- A code outside the five names no selector (R171). -/
theorem selectorOf_eq_none {code : Byte} (h : code.toNat = 0 ∨ 5 < code.toNat) : selectorOf code = none := by
  unfold selectorOf
  split
  · omega
  · omega
  · omega
  · omega
  · omega
  · rfl

/-- A PROBE that the latch does not take changes nothing (R171). -/
theorem State.takeProbe_of_ignored {f : Frame} {s : State} (h : f.destMode ≠ .station ∨ f.payload.length ≠ 2 ∨
    s.mute = true ∨ s.faults.latch ≠ none ∨ selectorOf (byteAt f.payload 1) = none) : s.takeProbe f = s := by
  unfold State.takeProbe
  split
  · rfl
  next htaken =>
    obtain ⟨hmode, hlength, hmute, hlatch⟩ := (by simpa only [not_or, Option.isSome_iff_ne_none] using htaken :
      ¬f.destMode ≠ .station ∧ ¬f.payload.length ≠ 2 ∧ ¬s.mute = true ∧ ¬s.faults.latch ≠ none)
    rw [(((h.resolve_left hmode).resolve_left hlength).resolve_left hmute).resolve_left hlatch]

/-- A PROBE that the latch takes (R171, R172). -/
theorem State.takeProbe_of_taken {f : Frame} {s : State} {sel : Selector} (hmode : f.destMode = .station)
    (hlength : f.payload.length = 2) (hsel : selectorOf (byteAt f.payload 1) = some sel) (hmute : s.mute = false)
    (hlatch : s.faults.latch = none) : s.takeProbe f = s.acceptProbe f sel := by
  unfold State.takeProbe
  rw [if_neg (by simp [hmode, hlength, hmute, hlatch]), hsel]

/-- Serving PEERS clears the lost latches (R160). -/
theorem State.served_peers (s : State) :
    (s.served .peers).peers = mapFamily (fun _ p => { p with lost := false }) s.peers := by
  rw [State.served, State.clearLost, State.withPeers_peers]

/-- A kept snapshot with its REPORT request (R171, R172). -/
theorem State.acceptProbe_of_access {f : Frame} {sel : Selector} {s : State} (access : s.HasAccess)
    (hnew : .report ∉ s.line.txList) : ∃ p, s.acceptProbe f sel =
      ((s.withPeers p).withFaults { s.faults with latch := some (s.snapshot f sel) }).withLine
        { s.line with txList := s.line.txList ++ [.report] } ∧
      (sel = .peers → ∀ x : StationId, p[x] = { s.peers[x] with lost := false }) ∧ (sel ≠ .peers → p = s.peers) := by
  obtain ⟨p, hp⟩ := s.served_footprint sel
  have hpeers : (s.served sel).peers = p := by rw [hp, State.withPeers_peers]
  refine ⟨p, ?_, fun hsel x => ?_, fun hsel => ?_⟩
  · rw [State.acceptProbe, hp, State.join_of_access
      (s := (s.withPeers p).withFaults { s.faults with latch := some (s.snapshot f sel) })
      ⟨access.running, access.speaks⟩ hnew]
    rfl
  · subst hsel
    rw [← hpeers, s.served_peers]
    exact mapFamily_getElem _ s.peers x
  · rw [← hpeers]
    cases sel with
    | peers => exact absurd rfl hsel
    | status => rfl
    | leadsLo => rfl
    | leadsHi => rfl
    | queue => rfl

/-- Each row of a PROBE hands its payload to the latch (R30, R171). -/
theorem exec_probe_receives {c : Instr} {f : Frame} {s : State} (hc : c ∈ [.probeStatus f, .probePeers f,
    .probeLeadsLo f, .probeLeadsHi f, .probeQueue f, .probeIgnored f]) :
    exec c s = .next (s.receive f State.takeProbe) := by
  simp only [List.mem_cons, List.not_mem_nil, or_false] at hc
  rcases hc with rfl | rfl | rfl | rfl | rfl | rfl <;> rfl

/-- Settles O36: a PROBE fills an empty latch, or is ignored. -/
theorem probeFillsTheLatchOrIsIgnored : Obligations.ProbeFillsTheLatchOrIsIgnored := by
  refine ⟨fun c f a s sel hc h hmode hlength hcode hspeaks hlatch hnew => ?_, fun c f a s hc h hignored => ?_⟩
  · have hmute : (s.arrived f a).mute = false := (s.arrived_mute f a).trans hspeaks
    have hempty : (s.arrived f a).faults.latch = none := (s.arrived_raised f a).latch.trans hlatch
    have hlist : (s.arrived f a).line.txList = s.line.txList := s.arrived_txList f a
    have running : (s.arrived f a).loader.life = .running := (congrArg Loader.life (s.arrived_loader f a)).trans h.running
    rw [exec_of_handedOn (exec_probe_receives hc) h, State.takeProbe_of_taken hmode hlength (selectorOf_eq_some hcode)
      hmute hempty]
    obtain ⟨p, hp, hcleared, hkept⟩ := State.acceptProbe_of_access (f := f) (sel := sel) ⟨running, hmute⟩
      (by rw [hlist]; exact hnew)
    refine ⟨p, ?_, hcleared, hkept⟩
    rw [hp, hlist]
    rfl
  · rw [exec_of_handedOn (exec_probe_receives hc) h, State.takeProbe_of_ignored]
    rw [s.arrived_mute f a, (s.arrived_raised f a).latch]
    exact hignored.imp_right (.imp_right (.imp_right (.imp_right selectorOf_eq_none)))

end Sys2Proof.Machine
end

section
/-! PROOF. CLEAR, and the input unit: sampling, the filter, the accepted edge and the capture slot (R113 to R118,
R123, R168, R170). -/

namespace Sys2Proof.Machine

/-! ### CLEAR (R168, R170) -/

@[simp] theorem State.arrived_inputs (f : Frame) (a : BusTime) (s : State) : (s.arrived f a).inputs = s.inputs := by
  rw [arrivalStages f a s]

/-- The end of mute with an empty list raises the full slots and a BEACON (R123, R139, R170). -/
theorem State.endMute_of_empty {s : State} (access : s.HasAccess) (hempty : s.line.txList = []) :
    s.endMute = s.withLine { s.line with
      txList := s.fullSlots.map Request.edge ++ [.beacon]
      beaconTimer := some s.cfg.beaconInterval } := by
  have hraised : s.raiseFullSlots = s.withLine { s.line with txList := s.fullSlots.map Request.edge } := by
    rw [State.raiseFullSlots_eq access (by simp [hempty]), hempty, List.nil_append]
  rw [State.endMute, hraised, State.startBeacon_of_access
    (s := s.withLine { s.line with txList := s.fullSlots.map Request.edge }) ⟨access.running, access.speaks⟩]
  simp only [State.withLine_line, State.withLine_cfg, List.mem_map, reduceCtorEq, and_false, exists_false, if_false]
  rfl

/-- CLEAR of 2 bytes (R168, R170). -/
theorem State.takeClear_of_length {f : Frame} {named : BitVec 13} {s : State} (hlength : f.payload.length = 2)
    (hnamed : (field16 f.payload 0).setWidth 13 = named) : s.takeClear f =
      if s.mute = true ∧ named.getLsbD 9 = true then (s.clearFlags named).endMute else s.clearFlags named := by
  rw [State.takeClear, if_neg (by simp [hlength])]
  dsimp only
  simp only [hnamed, Bool.and_eq_true]
  rfl

/-- A CLEAR that names ID_CLASH ends mute (R168). -/
theorem State.clearFlags_mute {named : BitVec 13} (hnamed : named.getLsbD 9 = true) (s : State) :
    (s.clearFlags named).mute = false := by
  simp [State.mute, State.clearFlags, hnamed]

/-- Settles O38: CLEAR ends the named flags, and mute with ID_CLASH. -/
theorem clearEndsFlagsAndMute : Obligations.ClearEndsFlagsAndMute := by
  intro f a s h u named cleared
  have hexec : exec (.clear f) s = .next (u.takeClear f) := exec_of_handedOn rfl h
  have hmute : u.mute = s.mute := s.arrived_mute f a
  refine ⟨fun hlength => ?_, fun hlength hkept => ?_, fun hlength hmuted hnamed hempty => ?_⟩
  · rw [hexec, State.takeClear, if_pos hlength]
    rfl
  · rw [hexec, State.takeClear_of_length (named := named) hlength rfl, hmute, if_neg hkept]
    rfl
  · have hspeaks : (u.clearFlags named).mute = false := State.clearFlags_mute hnamed u
    have hlife : (u.clearFlags named).loader.life = .running :=
      (congrArg Loader.life (s.arrived_loader f a)).trans h.running
    have hlist : (u.clearFlags named).line.txList = [] := (s.arrived_txList f a).trans hempty
    have hended := State.endMute_of_empty ⟨hlife, hspeaks⟩ hlist
    refine ⟨(u.clearFlags named).endMute, ?_, ?_, ?_⟩
    · rw [hexec, State.takeClear_of_length (named := named) hlength rfl, hmute, if_pos ⟨hmuted, hnamed⟩]
    · have hslots : (u.clearFlags named).fullSlots = s.fullSlots := congrArg
        (fun inputs : Vector Input 4 => (List.finRange 4).filter fun n : InputId => inputs[n].slot.isSome)
        (s.arrived_inputs f a)
      have hcfg : (u.clearFlags named).cfg = s.cfg := s.arrived_cfg f a
      rw [hended, hslots, hcfg]
      rfl
    · rw [hended]
      exact hspeaks

/-! ### The capture slot (R118) -/

/-- Settles O42: an edge fills the slot, or waits behind the capture in flight, or marks a loss. -/
theorem captureSlotUpdate : Obligations.CaptureSlotUpdate := by
  intro n k s put overrun
  refine ⟨fun hempty => ⟨fun hlife hspeaks hnew => ?_, fun hmute => ?_⟩, fun g hfull =>
    ⟨fun hwaits => ?_, fun hsent hnone => ?_, fun hsent hsome => ?_⟩⟩
  · rw [State.updateSlot, hempty]
    exact State.join_of_access (s := s.updateInput n (Input.fill k)) ⟨hlife, hspeaks⟩ hnew
  · rw [State.updateSlot, hempty]
    exact State.join_of_mute (s := s.updateInput n (Input.fill k)) hmute _
  · rw [State.updateSlot, hfull]
    dsimp only
    rw [if_neg (by simp [hwaits])]
    rfl
  · rw [State.updateSlot, hfull]
    dsimp only
    rw [if_pos hsent, hnone]
    rfl
  · rw [State.updateSlot, hfull]
    dsimp only
    rw [if_pos hsent, if_pos (Option.isSome_iff_ne_none.mpr hsome)]
    rfl

/-! ### The filter (R113, R114) -/

/-- A sample is due when the station is RUNNING and the sample timer stands at zero (R113). -/
theorem State.samplesNow_iff {n : InputId} {s : State} :
    s.samplesNow n = true ↔ s.loader.life = .running ∧ s.inputs[n].sampleTimer = some 0 := by
  simp [State.samplesNow, State.isRunning]

/-- Without a stable level a sample is the first (R113). -/
theorem State.filtered_of_unset {n : InputId} {level : Bool} {s : State} (h : s.inputs[n].stable = none) :
    s.filtered n level = .first := by
  rw [State.filtered, filterSample, h]

/-- A sample at the stable level (R114). -/
theorem State.filtered_of_agrees {n : InputId} {level : Bool} {s : State} (h : s.inputs[n].stable = some level) :
    s.filtered n level = .agrees := by
  rw [State.filtered, filterSample, h]
  exact if_pos rfl

/-- The run of an input with one more differing sample: its count and the time it began (R114). -/
def State.RunIs (n : InputId) (count : Nat) (since : BusTime) (s : State) : Prop :=
  s.inputs[n].run = none ∧ count = 1 ∧ since = s.timebase.busTime ∨
    ∃ r, s.inputs[n].run = some r ∧ count = r.samples + 1 ∧ since = r.since

/-- The extended run, by its count and its time. -/
theorem State.RunIs.extendRun_eq {n : InputId} {count : Nat} {since : BusTime} {s : State}
    (h : s.RunIs n count since) : extendRun s.timebase.busTime s.inputs[n].run = ⟨count, since⟩ := by
  rcases h with ⟨hrun, rfl, rfl⟩ | ⟨r, hrun, rfl, rfl⟩
  · rw [hrun]
    rfl
  · rw [hrun]
    rfl

/-- A sample against the stable level goes on with the run or is accepted (R114). -/
theorem State.filtered_of_differs {n : InputId} {level : Bool} {count : Nat} {since : BusTime} {s : State}
    (h : s.inputs[n].stable = some (!level)) (hrun : s.RunIs n count since) : s.filtered n level =
      if s.cfg.inputs[n].count ≤ count then .accepted since else .runs ⟨count, since⟩ := by
  rw [State.filtered, filterSample, h]
  dsimp only
  rw [if_neg (by simp), hrun.extendRun_eq]

/-- A run of differing samples has a count that extends it. -/
theorem State.RunIs.of_count {n : InputId} {count : Nat} {s : State} (h : s.inputs[n].run = none ∧ count = 1 ∨
    ∃ r, s.inputs[n].run = some r ∧ count = r.samples + 1) : ∃ since, s.RunIs n count since := by
  rcases h with ⟨hrun, hcount⟩ | ⟨r, hrun, hcount⟩
  · exact ⟨s.timebase.busTime, .inl ⟨hrun, hcount, rfl⟩⟩
  · exact ⟨r.since, .inr ⟨r, hrun, hcount, rfl⟩⟩

/-- The station after a sample that makes no edge: the level is seen and the filter keeps its outcome
(R113, R114). -/
def State.sampled (n : InputId) (level : Bool) (r : Filtered) (s : State) : State :=
  (s.seeLevel n level).updateInput n (Input.afterSample level s.cfg.inputs[n].period r)

/-- A sample that makes an edge (R115). -/
theorem State.takeSample_of_edge {n : InputId} {level : Bool} {time : BusTime} {s : State}
    (h : s.filtered n level = .accepted time) (hsel : s.cfg.inputs[n].select.selects level = true) :
    s.takeSample n level = (s.sampled n level (.accepted time)).acceptEdge n level time := by
  unfold State.takeSample State.sampled
  rw [h]
  exact if_pos hsel

/-- A sample makes an edge when its change is accepted and its direction selected (R115). -/
theorem State.edgeNow_of_accepted {n : InputId} {level : Bool} {time : BusTime} {s : State}
    (h : s.filtered n level = .accepted time) : s.edgeNow n level = s.cfg.inputs[n].select.selects level := by
  rw [State.edgeNow, h]

/-- A sample that makes no edge (R115). -/
theorem State.takeSample_of_not_edge {n : InputId} {level : Bool} {s : State} (h : s.edgeNow n level = false) :
    s.takeSample n level = s.sampled n level (s.filtered n level) := by
  unfold State.takeSample
  cases hr : s.filtered n level with
  | first => rfl
  | agrees => rfl
  | runs r => rfl
  | accepted time => exact if_neg (by rw [← State.edgeNow_of_accepted hr, h]; exact Bool.false_ne_true)

/-- A sample that is not accepted makes no edge (R115). -/
theorem State.edgeNow_of_filtered {n : InputId} {level : Bool} {s : State}
    (h : ∀ time, s.filtered n level ≠ .accepted time) : s.edgeNow n level = false := by
  unfold State.edgeNow
  split
  next time haccepted => exact absurd haccepted (h time)
  · rfl
  · rfl
  · rfl

/-- Where no sample is due, neither command of a sample does anything (R113). -/
theorem exec_inputSample_of_not_due {n : InputId} {level : Bool} {s : State}
    (h : s.loader.life ≠ .running ∨ s.inputs[n].sampleTimer ≠ some 0) :
    exec (.inputSample n level) s = .next s ∧ exec (.inputEdge n level) s = .next s := by
  have hnot : s.samplesNow n = false := Bool.eq_false_iff.mpr fun hdue => by
    obtain ⟨hlife, htimer⟩ := State.samplesNow_iff.mp hdue
    exact h.elim (fun hne => hne hlife) fun hne => hne htimer
  constructor
  · change Host.Outcome.next (if s.samplesNow n then _ else s) = _
    rw [hnot]
    rfl
  · change Host.Outcome.next (if s.samplesNow n && s.edgeNow n level then _ else s) = _
    rw [hnot]
    rfl

/-- A sample that is due is taken (R113). -/
theorem exec_inputSample_of_due {n : InputId} {level : Bool} {s : State} (h : s.samplesNow n = true) :
    exec (.inputSample n level) s = .next (s.takeSample n level) :=
  congrArg Host.Outcome.next (if_pos h)

/-- Settles O40: a sample feeds the filter, and the next one is due a period later. -/
theorem sampleFeedsTheFilter : Obligations.SampleFeedsTheFilter := by
  intro n level s next seen put
  refine ⟨fun hlife htimer => ?_, fun h => (exec_inputSample_of_not_due h).1⟩
  have hexec := exec_inputSample_of_due (level := level) (State.samplesNow_iff.mpr ⟨hlife, htimer⟩)
  refine ⟨fun hunset => ?_, fun hagrees => ?_, fun hdiffers count since hrun => ⟨fun hshort => ?_,
    fun hlong hunselected => ?_⟩⟩
  · have hfirst := State.filtered_of_unset (level := level) hunset
    rw [hexec, State.takeSample_of_not_edge (State.edgeNow_of_filtered (by simp [hfirst])), hfirst]
    rfl
  · have hagree := State.filtered_of_agrees hagrees
    rw [hexec, State.takeSample_of_not_edge (State.edgeNow_of_filtered (by simp [hagree])), hagree]
    rfl
  · have hgoes := State.filtered_of_differs hdiffers hrun
    rw [if_neg (Nat.not_le.mpr hshort)] at hgoes
    rw [hexec, State.takeSample_of_not_edge (State.edgeNow_of_filtered (by simp [hgoes])), hgoes]
    rfl
  · have haccepted := State.filtered_of_differs hdiffers hrun
    rw [if_pos hlong] at haccepted
    rw [hexec, State.takeSample_of_not_edge ((State.edgeNow_of_accepted haccepted).trans hunselected), haccepted]
    rfl

/-! ### The edge (R115 to R118) -/

/-- Two changes of one input are one change. -/
theorem State.updateInput_updateInput (n : InputId) (f g : Input → Input) (s : State) :
    (s.updateInput n f).updateInput n g = s.updateInput n (g ∘ f) := by
  have hset : (s.inputs.set n (f s.inputs[n])).set n (g (f s.inputs[n])) = s.inputs.set n (g (f s.inputs[n])) := by
    simp
  have hat : (s.updateInput n f).inputs[n] = f s.inputs[n] := by rw [State.updateInput_input, if_pos rfl]
  rw [State.updateInput, hat]
  exact congrArg s.withInputs hset

/-- What follows an accepted change: the report to the own bindings and the capture slot (R115 to R118). -/
theorem State.acceptEdge_sampled (n : InputId) (level : Bool) (time : BusTime) (s : State) :
    (s.sampled n level (.accepted time)).acceptEdge n level time =
      (((s.seeLevel n level).updateInput n fun i => { i with
          stable := some level, run := none, sampleTimer := some s.cfg.inputs[n].period,
          edgeCount := s.inputs[n].edgeCount + 1 }).judgeReport s.cfg.ownId
        ⟨n, level, s.inputs[n].edgeCount + 1, time⟩).updateSlot n ⟨time, level, s.inputs[n].edgeCount + 1, false⟩ := by
  have hcount : (s.sampled n level (.accepted time)).inputs[n].edgeCount = s.inputs[n].edgeCount := by
    rw [State.sampled, State.updateInput_input, if_pos rfl]
    rfl
  rw [State.acceptEdge, hcount]
  rw [State.sampled, State.updateInput_updateInput]
  rfl

/-- The commands of an edge are a sample where one is due and would be an edge (R115). -/
theorem exec_inputEdge_of_due {n : InputId} {level : Bool} {s : State} (h : s.samplesNow n = true) :
    exec (.inputEdge n level) s = .next (if s.edgeNow n level = true then s.takeSample n level else s) := by
  change Host.Outcome.next (if s.samplesNow n && s.edgeNow n level then _ else s) = _
  rw [h, Bool.true_and]

/-- Settles O41: an edge is counted, captured and delivered to the own bindings; other samples make none. -/
theorem edgeIsCapturedAndSelfDelivered : Obligations.EdgeIsCapturedAndSelfDelivered := by
  refine ⟨fun n level s hlife htimer => ?_, fun n level s h => (exec_inputSample_of_not_due h).2⟩
  have hdue : s.samplesNow n = true := State.samplesNow_iff.mpr ⟨hlife, htimer⟩
  have hedge := exec_inputEdge_of_due (level := level) hdue
  refine ⟨fun count since hdiffers hrun hlong hselected => ?_, fun hstable => ?_,
    fun count hdiffers hcount hfails => ?_⟩
  · intro number counted after
    have haccepted := State.filtered_of_differs hdiffers hrun
    rw [if_pos hlong] at haccepted
    have htaken : s.takeSample n level = after :=
      (State.takeSample_of_edge haccepted hselected).trans (State.acceptEdge_sampled n level since s)
    rw [hedge, if_pos ((State.edgeNow_of_accepted haccepted).trans hselected), exec_inputSample_of_due hdue, htaken]
    exact ⟨rfl, rfl⟩
  · have hnone : s.edgeNow n level = false := by
      rcases hstable with hunset | hagrees
      · exact State.edgeNow_of_filtered (by simp [State.filtered_of_unset (level := level) hunset])
      · exact State.edgeNow_of_filtered (by simp [State.filtered_of_agrees hagrees])
    rw [hedge, if_neg (by simp [hnone])]
  · obtain ⟨since, hrun⟩ := State.RunIs.of_count hcount
    have hfiltered := State.filtered_of_differs hdiffers hrun
    have hnone : s.edgeNow n level = false := by
      by_cases hlong : s.cfg.inputs[n].count ≤ count
      · rw [if_pos hlong] at hfiltered
        exact (State.edgeNow_of_accepted hfiltered).trans (hfails.resolve_left (Nat.not_lt.mpr hlong))
      · rw [if_neg hlong] at hfiltered
        exact State.edgeNow_of_filtered (by simp [hfiltered])
    rw [hedge, if_neg (by simp [hnone])]

end Sys2Proof.Machine
end

section
/-! PROOF. The firing that meets a channel, the ends of its phases and the delivery of the due entries
(R55, R71 to R83, R88, R95). -/

namespace Sys2Proof.Machine

/-! ### The delivery of a firing (R73, R78 to R83) -/

/-- A delivered firing, by what its channel makes of it (R80). -/
theorem State.deliver_eq {c : ChannelId} {p : Program} {late : Bool} {s : State} {x : Channel}
    (h : s.channels[c].takeFiring s.cfg.channels[c].gap p late = x) :
    s.deliver c p late = s.withChannels (s.channels.set c x) := by
  subst h
  rfl

/-- A non-level firing starts an idle channel (R73). -/
theorem Channel.takeNonLevel_of_idle {k : Channel} (hphase : k.phase = .idle) (g : Nat) (p : Program) (late : Bool) :
    k.takeNonLevel g p late = k.start p late := by
  simp [Channel.takeNonLevel, hphase]

/-- A non-level firing that meets a channel in OFF waits (R82). -/
theorem Channel.takeNonLevel_of_off {k : Channel} {n : Nat} (hphase : k.phase = .off n) (g : Nat) (p : Program)
    (late : Bool) : k.takeNonLevel g p late = k.place p late := by
  simp [Channel.takeNonLevel, hphase]

/-- Where not both programs are RETRIG a firing that meets ON waits (R82). -/
theorem Channel.takeNonLevel_of_on {k : Channel} {p : Program} {n : Nat} (hphase : k.phase = .on n)
    (hother : p.kind ≠ .retrig ∨ ∀ q, k.running = some q → q.kind ≠ .retrig) (g : Nat) (late : Bool) :
    k.takeNonLevel g p late = k.place p late := by
  have hnot : ¬(k.runningKind = some .retrig ∧ p.kind = .retrig) := by
    rintro ⟨hrunning, hp⟩
    obtain ⟨q, hq, hkind⟩ := Option.map_eq_some_iff.mp hrunning
    exact hother.elim (fun h => h hp) fun h => h q hq hkind
  rw [Channel.takeNonLevel, hphase]
  exact if_neg hnot

/-- A LEVEL_OFF firing ends the work (R79). -/
theorem Channel.takeFiring_of_levelOff {p : Program} (hkind : p.kind = .levelOff) (g : Nat) (late : Bool)
    (k : Channel) : k.takeFiring g p late = k.endWork g := by
  rw [Channel.takeFiring, hkind]

/-- An idle channel has no work to end (R79). -/
theorem Channel.endWork_of_idle {k : Channel} (hphase : k.phase = .idle) (g : Nat) : k.endWork g = k := by
  rw [Channel.endWork, hphase]

/-- A channel in RECOVER loses what waits (R79). -/
theorem Channel.endWork_of_recover {k : Channel} {n : Nat} (hphase : k.phase = .recover n) (g : Nat) :
    k.endWork g = { k with waiting := none } := by
  rw [Channel.endWork, hphase]

/-- A channel at work enters RECOVER with a fresh gap (R79). -/
theorem Channel.endWork_of_busy {k : Channel} (hbusy : (∃ n, k.phase = .on n ∨ k.phase = .off n) ∨ k.phase = .hold)
    (g : Nat) : k.endWork g = { k with phase := .recover g, waiting := none } := by
  rcases hbusy with ⟨n, hphase | hphase⟩ | hphase
  · rw [Channel.endWork, hphase, Channel.stop]
  · rw [Channel.endWork, hphase, Channel.stop]
  · rw [Channel.endWork, hphase, Channel.stop]

/-- Settles O44: a firing starts an idle channel, waits at a busy one, holds it or ends its work. -/
theorem firingMeetsAChannel : Obligations.FiringMeetsAChannel := by
  intro c p late s k g put waits
  refine ⟨fun hon hoff => ?_, fun hkind => ?_, fun hkind => ⟨fun hphase => ?_, fun n hphase => ?_, fun hbusy => ?_⟩⟩
  · have htake : k.takeFiring g p late = k.takeNonLevel g p late := Channel.takeFiring_of_nonLevel hon hoff g late k
    refine ⟨fun hphase => ?_, fun n hphase => ?_, fun n hphase hother => ?_⟩
    · have hstart := htake.trans (Channel.takeNonLevel_of_idle hphase g p late)
      refine ⟨fun hkind => ?_, fun hkind => ?_, fun hkind => ?_⟩
      · exact State.deliver_eq (hstart.trans (by simp [Channel.start, onTicks, startCount, activeHalf, hkind]))
      · exact State.deliver_eq (hstart.trans (by simp [Channel.start, onTicks, startCount, hkind]))
      · rcases hkind with hkind | hkind
        · exact State.deliver_eq (hstart.trans (by simp [Channel.start, onTicks, startCount, hkind]))
        · exact State.deliver_eq (hstart.trans (by simp [Channel.start, onTicks, startCount, hkind]))
    · rcases hphase with hphase | hphase
      · exact State.deliver_eq (htake.trans (Channel.takeNonLevel_of_off hphase g p late))
      · exact State.deliver_eq (htake.trans (Channel.takeNonLevel_of_recover hphase g p late))
    · exact State.deliver_eq (htake.trans (Channel.takeNonLevel_of_on hphase hother g late))
  · exact State.deliver_eq (by rw [Channel.takeFiring, hkind]; rfl)
  · have hsame : k.takeFiring g p late = k :=
      (Channel.takeFiring_of_levelOff hkind g late k).trans (Channel.endWork_of_idle hphase g)
    rw [State.deliver_eq hsame]
    exact congrArg s.withChannels (Vector.set_getElem_self c.isLt)
  · exact State.deliver_eq
      ((Channel.takeFiring_of_levelOff hkind g late k).trans (Channel.endWork_of_recover hphase g))
  · exact State.deliver_eq ((Channel.takeFiring_of_levelOff hkind g late k).trans (Channel.endWork_of_busy hbusy g))

/-! ### The ends of the phases (R74 to R77) -/

/-- The end of an ON phase, by what the channel makes of it (R74 to R76). -/
theorem exec_onPhaseExpiry {c : ChannelId} {s : State} {x : Channel} (hphase : s.channels[c].phase = .on 0)
    (h : s.channels[c].onEnds s.cfg.channels[c].gap = x) :
    exec (.onPhaseExpiry c) s = .next (s.withChannels (s.channels.set c x)) := by
  subst h
  exact congrArg Host.Outcome.next (if_pos hphase)

/-- The end of an OFF phase, by what the channel makes of it (R75, R76). -/
theorem exec_offPhaseExpiry {c : ChannelId} {s : State} {x : Channel} (hphase : s.channels[c].phase = .off 0)
    (h : s.channels[c].offEnds s.cfg.channels[c].gap = x) :
    exec (.offPhaseExpiry c) s = .next (s.withChannels (s.channels.set c x)) := by
  subst h
  exact congrArg Host.Outcome.next (if_pos hphase)

/-- The end of a RECOVER phase, by what the channel makes of it (R77). -/
theorem exec_recoverExpiry {c : ChannelId} {s : State} {x : Channel} (hphase : s.channels[c].phase = .recover 0)
    (h : s.channels[c].recoverEnds = x) :
    exec (.recoverExpiry c) s = .next (s.withChannels (s.channels.set c x)) := by
  subst h
  exact congrArg Host.Outcome.next (if_pos hphase)

/-- An ON phase of a PULSE or RETRIG ends in RECOVER (R74). -/
theorem Channel.onEnds_of_single {k : Channel} {p : Program} (hrunning : k.running = some p)
    (hkind : p.kind = .pulse ∨ p.kind = .retrig) (g : Nat) : k.onEnds g = { k with phase := .recover g } := by
  rcases hkind with hkind | hkind
  · simp [Channel.onEnds, Channel.enterRecover, hrunning, hkind]
  · simp [Channel.onEnds, Channel.enterRecover, hrunning, hkind]

/-- An ON phase of a TRAIN ends in RECOVER with the last pulse, in OFF otherwise (R75). -/
theorem Channel.onEnds_of_train {k : Channel} {p : Program} (hrunning : k.running = some p) (hkind : p.kind = .train)
    (g : Nat) : k.onEnds g = if k.countDown.remaining = some 0 then k.countDown.enterRecover g
      else { k.countDown with phase := .off (p.period.toNat - p.width.toNat) } := by
  simp [Channel.onEnds, hrunning, hkind]

/-- An ON phase of a SQUARE ends in OFF (R76). -/
theorem Channel.onEnds_of_square {k : Channel} {p : Program} (hrunning : k.running = some p)
    (hkind : p.kind = .square) (g : Nat) : k.onEnds g = { k with phase := .off (p.period.toNat / 2) } := by
  simp [Channel.onEnds, idleHalf, hrunning, hkind]

/-- An OFF phase of a TRAIN ends in RECOVER when a firing waits, in ON otherwise (R75). -/
theorem Channel.offEnds_of_train {k : Channel} {p : Program} (hrunning : k.running = some p) (hkind : p.kind = .train)
    (g : Nat) : k.offEnds g = if k.waiting.isSome then k.enterRecover g
      else { k with phase := .on p.width.toNat } := by
  simp [Channel.offEnds, hrunning, hkind]

/-- An OFF phase of a SQUARE ends in RECOVER with the last cycle or when a firing waits, in ON otherwise (R76). -/
theorem Channel.offEnds_of_square {k : Channel} {p : Program} (hrunning : k.running = some p)
    (hkind : p.kind = .square) (g : Nat) : k.offEnds g =
      if k.countDown.remaining = some 0 ∨ k.waiting.isSome then k.countDown.enterRecover g
      else { k.countDown with phase := .on ((p.period.toNat + 1) / 2) } := by
  simp [Channel.offEnds, activeHalf, hrunning, hkind]

/-- At the end of RECOVER a channel without a waiting firing enters IDLE (R77, R87). -/
theorem Channel.recoverEnds_of_empty {k : Channel} (hempty : k.waiting = none) :
    k.recoverEnds = { k with phase := .idle, running := none, remaining := none, overwritten := false } := by
  rw [Channel.recoverEnds, hempty]

/-- Settles O47: the end of each phase by the kind of the program, its count and the waiting firing. -/
theorem phaseExpiries : Obligations.PhaseExpiries := by
  intro c s k g put less
  refine ⟨fun p hphase hrunning => ⟨fun hkind => ?_, fun hkind hlast => ?_, fun hkind hmore => ?_, fun hkind => ?_⟩,
    fun p hphase hrunning => ⟨fun hkind hwaits => ?_, fun hkind hnone => ?_, fun hkind hends => ?_,
      fun hkind hmore hnone => ?_⟩, fun hphase => ⟨fun hnone => ?_, fun w hwaits hon hoff => ?_⟩,
    fun hne => congrArg Host.Outcome.next (if_neg hne), fun hne => congrArg Host.Outcome.next (if_neg hne),
    fun hne => congrArg Host.Outcome.next (if_neg hne)⟩
  · exact exec_onPhaseExpiry hphase (Channel.onEnds_of_single hrunning hkind g)
  · exact exec_onPhaseExpiry hphase ((Channel.onEnds_of_train hrunning hkind g).trans (if_pos hlast))
  · exact exec_onPhaseExpiry hphase ((Channel.onEnds_of_train hrunning hkind g).trans (if_neg hmore))
  · exact exec_onPhaseExpiry hphase (Channel.onEnds_of_square hrunning hkind g)
  · exact exec_offPhaseExpiry hphase ((Channel.offEnds_of_train hrunning hkind g).trans
      (if_pos (Option.isSome_iff_ne_none.mpr hwaits)))
  · exact exec_offPhaseExpiry hphase ((Channel.offEnds_of_train hrunning hkind g).trans
      (if_neg fun h => Option.isSome_iff_ne_none.mp h hnone))
  · exact exec_offPhaseExpiry hphase ((Channel.offEnds_of_square hrunning hkind g).trans
      (if_pos (hends.imp_right Option.isSome_iff_ne_none.mpr)))
  · exact exec_offPhaseExpiry hphase ((Channel.offEnds_of_square hrunning hkind g).trans
      (if_neg fun h => h.elim hmore fun hsome => Option.isSome_iff_ne_none.mp hsome hnone))
  · exact exec_recoverExpiry hphase (Channel.recoverEnds_of_empty hnone)
  · refine exec_recoverExpiry hphase ((Channel.recoverEnds_of_waiting hwaits).trans ?_)
    rw [Channel.start, onTicks_of_nonLevel hon hoff, startCount_eq]

/-! ### The delivery of the due entries (R53, R55, R95) -/

/-- When what has a property stands before what has not, the filter takes a beginning of the list. -/
theorem filter_eq_takeWhile {α : Type} {p : α → Bool} {l : List α}
    (h : l.Pairwise fun a b => p b = true → p a = true) :
    l.filter p = l.takeWhile p ∧ (l.filter fun a => !p a) = l.dropWhile p := by
  induction l with
  | nil => exact ⟨rfl, rfl⟩
  | cons a rest ih =>
    obtain ⟨hfirst, hrest⟩ := List.pairwise_cons.mp h
    obtain ⟨hfilter, hdropped⟩ := ih hrest
    cases ha : p a with
    | true => simp [ha, hfilter, hdropped]
    | false =>
      have hnone : ∀ b ∈ rest, p b = false := fun b hb =>
        Bool.eq_false_iff.mpr fun hpb => Bool.false_ne_true (ha.symm.trans (hfirst b hb hpb))
      simp only [List.takeWhile_cons, List.dropWhile_cons, ha, Bool.not_false, if_true, Bool.false_eq_true, if_false,
        List.filter_cons, List.cons.injEq, true_and]
      exact ⟨List.filter_eq_nil_iff.mpr fun b hb => by simp [hnone b hb],
        List.filter_eq_self.mpr fun b hb => by simp [hnone b hb]⟩

/-- In an ordered queue what is due stands before what is not (R38, R53). -/
theorem QueueSound.due_first {s : State} (h : QueueSound s) : s.queue.Pairwise fun a b =>
    decide (b.fireTime = s.timebase.busTime + 1) = true → decide (a.fireTime = s.timebase.busTime + 1) = true := by
  refine h.ordered.imp_of_mem fun {a b} ha hb horder hdue => ?_
  obtain ⟨hlow, hhigh⟩ := h.span a ha
  have hb : b.fireTime = s.timebase.busTime + 1 := of_decide_eq_true hdue
  have hbdiff : signedDiff b.fireTime s.timebase.busTime = 1 := by rw [hb, signedDiff_succ]
  have hnot : ¬0 < signedDiff a.fireTime b.fireTime := of_decide_eq_false horder
  rw [later_iff_of_range a.fireTime b.fireTime s.timebase.busTime (by omega) (by omega)] at hnot
  exact decide_eq_true (fireTime_eq_succ (by omega))

/-- What is not due at the next tick is later than it (R53). -/
theorem QueueSound.later_of_not_due {s : State} (h : QueueSound s) {e : CueEntry} (he : e ∈ s.queue)
    (hnot : e.fireTime ≠ s.timebase.busTime + 1) : later e.fireTime (s.timebase.busTime + 1) = true := by
  obtain ⟨hlow, hhigh⟩ := h.span e he
  have hne : signedDiff e.fireTime s.timebase.busTime ≠ 1 := fun hone => hnot (fireTime_eq_succ hone)
  have hdiff : signedDiff e.fireTime (advance s.timebase.busTime 1) = signedDiff e.fireTime s.timebase.busTime - 1 :=
    signedDiff_advance _ _ 1 (by omega) (by omega)
  rw [tick_eq_advance, later, decide_eq_true_eq, hdiff]
  omega

/-- The tick of a sound queue delivers its beginning (R53, R55). -/
theorem State.busTick_eq {s : State} (h : QueueSound s) : s.busTick =
    (s.queue.takeWhile fun e => decide (e.fireTime = s.timebase.busTime + 1)).foldl (deliverUnder s.cfg fun _ => false)
      ((s.withTimebase { s.timebase with busTime := s.timebase.busTime + 1 }).withQueue
        (s.queue.dropWhile fun e => decide (e.fireTime = s.timebase.busTime + 1))) := by
  obtain ⟨hdue, hrest⟩ := filter_eq_takeWhile h.due_first
  rw [State.busTick, hdue, hrest]
  exact foldl_deliverUnder (fun _ => false) _ rfl

/-- Outside a hold the tick delivers, and a scope that has waited for it acts (R59, R95). -/
theorem exec_dueDelivery_of_free {s : State} (h : s.loader.held = false) :
    exec .dueDelivery s = .next s.busTick.finishCancel :=
  congrArg Host.Outcome.next (if_neg (by simp [h]))

/-- Where no scope has waited the delivery is all (R59). -/
theorem State.finishCancel_of_none {s : State} (h : s.scopeLeft = none) : s.finishCancel = s := by
  rw [State.finishCancel, h]

/-- A scope that has waited acts and no longer waits (R59, R95). -/
theorem State.finishCancel_of_some {s : State} {l : ScopeLeft} (h : s.scopeLeft = some l) :
    s.finishCancel = (s.cancelScope l).withScopeLeft none := by
  rw [State.finishCancel, h]

/-- Settles O43: the tick delivers the due entries in their order, and then what has waited of a CANCEL acts. -/
theorem tickDeliversTheDueEntries : Obligations.TickDeliversTheDueEntries := by
  intro s hheld hsound now due rest d
  have hticked : s.busTick = d := State.busTick_eq hsound
  have hrest : (s.queue.filter fun e => !decide (e.fireTime = now)) = rest := (filter_eq_takeWhile hsound.due_first).2
  obtain ⟨v, u, hfoot⟩ := s.busTick_footprint
  rw [hticked] at hfoot
  have hscope : d.scopeLeft = s.scopeLeft := by rw [hfoot]; rfl
  have hcfg : d.cfg = s.cfg := by rw [hfoot]; rfl
  have hqueue : d.queue = rest := by rw [hfoot]; exact hrest
  rw [exec_dueDelivery_of_free hheld, hticked]
  refine ⟨fun e he => of_decide_eq_true (List.mem_takeWhile_imp (p := fun e : CueEntry => decide (e.fireTime = now)) he), fun e he => ?_, fun hnone => ?_,
    fun x set tag hleft => ?_, fun x set tag hleft => ⟨(d.cancelOutput set).channels, ?_, fun i => ?_⟩⟩
  · obtain ⟨hmem, hnot⟩ := List.mem_filter.mp (hrest ▸ he)
    exact hsound.later_of_not_due hmem (of_decide_eq_false (Bool.not_eq_true' _ ▸ hnot))
  · rw [State.finishCancel_of_none (hscope.trans hnone)]
  · rw [State.finishCancel_of_some (hscope.trans hleft), ← hqueue]
    rfl
  · rw [State.finishCancel_of_some (hscope.trans hleft)]
    rfl
  · rw [State.cancelOutput_channel, State.gap, hcfg]
    by_cases hset : set.getLsbD i.val = true
    · rw [if_pos hset, if_pos hset]
      exact Channel.endWork_eq _ _
    · rw [if_neg hset, if_neg hset]

end Sys2Proof.Machine
end

section
/-! PROOF. Bytes, their bits and their fields, and the bodies of the reports (R97, R125, R160, R174, R175). -/

namespace Sys2Proof.Machine

/-! ### Bytes at their places -/

@[simp] theorem byteAt_cons_zero (b : Byte) (l : List Byte) : byteAt (b :: l) 0 = b := rfl

@[simp] theorem byteAt_cons_succ (b : Byte) (l : List Byte) (i : Nat) : byteAt (b :: l) (i + 1) = byteAt l i := rfl

/-- A byte behind a beginning. -/
theorem byteAt_append_right (front l : List Byte) (i : Nat) : byteAt (front ++ l) (front.length + i) = byteAt l i := by
  rw [byteAt, byteAt, List.getD, List.getD, List.getElem?_append_right (Nat.le_add_right ..), Nat.add_sub_cancel_left]

/-- A byte of a beginning. -/
theorem byteAt_append_left {front : List Byte} {i : Nat} (h : i < front.length) (l : List Byte) :
    byteAt (front ++ l) i = byteAt front i := by
  rw [byteAt, byteAt, List.getD, List.getD, List.getElem?_append_left h]

/-- A byte of a list that has it. -/
theorem byteAt_of_getElem? {l : List Byte} {i : Nat} {b : Byte} (h : l[i]? = some b) : byteAt l i = b := by
  simp [byteAt, List.getD, h]

/-- The bytes of an element, in a list of elements of one length each. -/
theorem byteAt_flatMap {α : Type} {f : α → List Byte} {k : Nat} (hf : ∀ a, (f a).length = k) {l : List α} {i j : Nat}
    {a : α} (ha : l[i]? = some a) (hj : j < k) : byteAt (l.flatMap f) (k * i + j) = byteAt (f a) j := by
  induction l generalizing i with
  | nil => simp at ha
  | cons x rest ih =>
    rw [List.flatMap_cons]
    cases i with
    | zero =>
      obtain rfl : x = a := by simpa using ha
      rw [Nat.mul_zero, Nat.zero_add]
      exact byteAt_append_left (by rw [hf]; exact hj) _
    | succ i =>
      rw [show k * (i + 1) + j = (f x).length + (k * i + j) by rw [hf]; ring, byteAt_append_right]
      exact ih (by simpa using ha)

/-- The length of a list of elements of one length each. -/
theorem length_flatMap_of_length {α : Type} {f : α → List Byte} {k : Nat} (hf : ∀ a, (f a).length = k) (l : List α) :
    (l.flatMap f).length = k * l.length := by
  induction l with
  | nil => rfl
  | cons x rest ih => rw [List.flatMap_cons, List.length_append, hf, ih, List.length_cons]; ring

/-! ### Fields -/

@[simp] theorem field16_bytes16 (x : BitVec 16) : field16 (bytes16 x) 0 = x := by
  change x.extractLsb' 8 8 ++ x.extractLsb' 0 8 = x
  rw [BitVec.extractLsb'_append_extractLsb'_eq_extractLsb' (start₁ := 0) (start₂ := 8) rfl]
  exact BitVec.extractLsb'_eq_self

@[simp] theorem field40_bytes40 (x : BitVec 40) : field40 (bytes40 x) 0 = x := by
  change x.extractLsb' 32 8 ++ x.extractLsb' 24 8 ++ x.extractLsb' 16 8 ++ x.extractLsb' 8 8 ++ x.extractLsb' 0 8 = x
  rw [BitVec.extractLsb'_append_extractLsb'_eq_extractLsb' (start₁ := 24) (start₂ := 32) rfl,
    BitVec.extractLsb'_append_extractLsb'_eq_extractLsb' (start₁ := 16) (start₂ := 24) rfl,
    BitVec.extractLsb'_append_extractLsb'_eq_extractLsb' (start₁ := 8) (start₂ := 16) rfl,
    BitVec.extractLsb'_append_extractLsb'_eq_extractLsb' (start₁ := 0) (start₂ := 8) rfl]
  exact BitVec.extractLsb'_eq_self

/-- A field is read from its bytes. -/
theorem field16_eq_of_bytes {l : List Byte} {i : Nat} {x : BitVec 16}
    (h : ∀ j < 2, byteAt l (i + j) = byteAt (bytes16 x) j) : field16 l i = x := by
  have h₀ : byteAt l i = _ := h 0 (by decide)
  rw [← field16_bytes16 x, field16, h₀, h 1 (by decide)]
  rfl

/-- A field is read from its bytes. -/
theorem field40_eq_of_bytes {l : List Byte} {i : Nat} {x : BitVec 40}
    (h : ∀ j < 5, byteAt l (i + j) = byteAt (bytes40 x) j) : field40 l i = x := by
  have h₀ : byteAt l i = _ := h 0 (by decide)
  rw [← field40_bytes40 x, field40, h₀, h 1 (by decide), h 2 (by decide), h 3 (by decide), h 4 (by decide)]
  rfl

/-! ### Bits -/

/-- The bits of a single bit at its place. -/
theorem getLsbD_bitAt (place : Nat) (b : Bool) {i : Nat} (hi : i < 8) :
    (bitAt place b).getLsbD i = (b && decide (i = place)) := by
  cases b with
  | false => simp [bitAt]
  | true =>
    simp only [bitAt, if_true, Bool.true_and, BitVec.getLsbD_shiftLeft, hi, decide_true]
    rcases lt_trichotomy i place with h | rfl | h
    · simp [h, h.ne]
    · simp
    · simp [h.ne', Nat.not_lt.mpr h.le, show i - place ≠ 0 by omega]

/-- The bits of a set as a byte. -/
theorem getLsbD_setByte (place : Nat) (members : List Bool) {i : Nat} (hi : i < 8) :
    (setByte place members).getLsbD i = (decide (place ≤ i) && members.getD (i - place) false) := by
  induction members generalizing place with
  | nil => simp [setByte]
  | cons b rest ih =>
    rw [setByte, BitVec.getLsbD_or, getLsbD_bitAt place b hi, ih]
    rcases lt_trichotomy i place with h | rfl | h
    · simp [Nat.not_le.mpr h, h.ne, show ¬place + 1 ≤ i by omega]
    · simp
    · obtain ⟨d, rfl⟩ := Nat.exists_eq_add_of_lt h
      simp [show place + d + 1 - place = d + 1 by omega, show place + d + 1 - (place + 1) = d by omega,
        show place ≤ place + d + 1 by omega, show place + d + 1 ≠ place by omega]

end Sys2Proof.Machine
end

section
/-! PROOF. The bodies of the reports (R97, R125, R160, R174, R175). -/

namespace Sys2Proof.Machine

/-! ### The bytes of the bodies -/

/-- The access byte: three single bits over a count of at most five (R174). -/
theorem accessBits : ∀ (m o a : Bool) (n : Fin 6),
    let x : Byte := bitAt 7 m ||| bitAt 6 o ||| bitAt 5 a ||| BitVec.ofNat 8 n.val
    x.getLsbD 7 = m ∧ x.getLsbD 6 = o ∧ x.getLsbD 5 = a ∧ x.extractLsb' 3 2 = 0 ∧
      (x.extractLsb' 0 3).toNat = n.val := by
  decide

/-- The state byte of a channel: two codes of three bits (R97, R174). -/
theorem stateBits : ∀ p k : BitVec 3,
    let x : Byte := (p ++ 0#5 : BitVec 8) ||| k.setWidth 8
    x.extractLsb' 5 3 = p ∧ x.extractLsb' 3 2 = 0 ∧ x.extractLsb' 0 3 = k := by
  decide

/-- The mark byte of a channel: four single bits (R97, R174). -/
theorem markBits : ∀ w l o a : Bool,
    let x : Byte := bitAt 3 w ||| bitAt 2 l ||| bitAt 1 o ||| bitAt 0 a
    x.extractLsb' 4 4 = 0 ∧ x.getLsbD 3 = w ∧ x.getLsbD 2 = l ∧ x.getLsbD 1 = o ∧ x.getLsbD 0 = a := by
  decide

/-- The byte of a peer: a code of two bits and four single bits (R160, R175). -/
theorem peerBits : ∀ (p : BitVec 2) (l m f r : Bool),
    let x : Byte := (p ++ 0#6 : BitVec 8) ||| bitAt 5 l ||| bitAt 4 m ||| bitAt 3 f ||| bitAt 2 r
    x.extractLsb' 6 2 = p ∧ x.getLsbD 5 = l ∧ x.getLsbD 4 = m ∧ x.getLsbD 3 = f ∧ x.getLsbD 2 = r ∧
      x.extractLsb' 0 2 = 0 := by
  decide

/-- The origin byte of a binding: its number over 128 (R175). -/
theorem originByte_binding : ∀ n : BindingId, (originByte (.binding n)).toNat = 128 + n.val := by
  decide

/-- The origin byte of a message: its sender (R175). -/
theorem originByte_message : ∀ x : StationId, (originByte (.message x)).toNat = x.val := by
  decide

/-- The code of a running kind in three bits (R174). -/
def runningCode (c : Channel) : BitVec 3 :=
  match c.runningKind with
  | none => 0
  | some .pulse => 1
  | some .retrig => 2
  | some .train => 3
  | some .square => 4
  | some .levelOn => 5
  | some .levelOff => 6

/-- A running kind takes three bits of its byte. -/
theorem runningKindCode_eq (c : Channel) : runningKindCode c = (runningCode c).setWidth 8 := by
  unfold runningKindCode runningCode
  cases c.runningKind with
  | none => rfl
  | some k => cases k <;> rfl

/-- A sound channel never runs a LEVEL_OFF (R71). -/
theorem Channel.sound.kind_ne_levelOff {c : Channel} (h : c.sound) {p : Program} (hrunning : c.running = some p) :
    p.kind ≠ .levelOff := by
  have hsame {q : Program} (hq : c.running = some q) : q = p := Option.some.inj (hq.symm.trans hrunning)
  unfold Channel.sound at h
  split at h
  · obtain ⟨hnone, -⟩ := h
    exact nomatch hnone.symm.trans hrunning
  · obtain ⟨q, hq, -, hoff⟩ := h
    exact hsame hq ▸ hoff
  · obtain ⟨q, hq, hkind⟩ := h
    rw [← hsame hq]
    rcases hkind with hkind | hkind <;> simp [hkind]
  · obtain ⟨q, hq, hoff⟩ := h
    exact hsame hq ▸ hoff
  · obtain ⟨q, hq, hkind, -⟩ := h
    rw [← hsame hq, hkind]
    decide

/-! ### STATUS (R174) -/

/-- The channels of a STATUS body stand behind its 17 bytes of the station. -/
def State.stationBytes (s : State) : List Byte :=
  [lifeCode s.loader.life, s.accessByte, lastSenderByte s.line.lastSender]
    ++ bytes16 (s.faults.flags.setWidth 16) ++ bytes16 (s.faults.mask.setWidth 16)
    ++ [reasonCode s.faults.reason] ++ bytes40 s.timebase.busTime
    ++ [BitVec.ofNat 8 s.queue.length,
        setByte 0 (s.staging.toList.map Option.isSome),
        setByte 4 (s.inputs.toList.map Input.slotInFlight)
          ||| setByte 0 (s.inputs.toList.map Input.holdsCapture),
        setByte 0 (s.inputs.toList.map Input.slotOverrun)]

theorem State.body_status (s : State) : s.body .status = s.stationBytes ++ s.channels.toList.flatMap channelBytes := rfl

theorem State.stationBytes_length (s : State) : s.stationBytes.length = 17 := rfl

/-- A member of a family, in its list. -/
theorem getElem?_toList {α : Type} {n : Nat} (v : Vector α n) (i : Fin n) : v.toList[i.val]? = some v[i] := by
  rw [List.getElem?_eq_getElem (by simp)]
  simp

/-- The bytes of a channel in a STATUS body. -/
theorem State.byteAt_status_channel (s : State) (c : ChannelId) {j : Nat} (hj : j < 2) :
    byteAt (s.body .status) (17 + 2 * c.val + j) = byteAt (channelBytes s.channels[c]) j := by
  rw [s.body_status, ← s.stationBytes_length, Nat.add_assoc, byteAt_append_right]
  exact byteAt_flatMap (f := channelBytes) (fun _ => rfl) (getElem?_toList _ c) hj

/-- The bit of a member in the byte of a family's set. -/
theorem getD_map_toList {α : Type} {n : Nat} (f : α → Bool) (v : Vector α n) (i : Fin n) :
    (v.toList.map f).getD i.val false = f v[i] := by
  simp [List.getD]

/-- The bit of an input in the in-flight and held byte (R125). -/
theorem State.captureBits (s : State) (n : InputId) :
    let x : Byte := setByte 4 (s.inputs.toList.map Input.slotInFlight)
      ||| setByte 0 (s.inputs.toList.map Input.holdsCapture)
    x.getLsbD (4 + n.val) = s.inputs[n].slotInFlight ∧ x.getLsbD n.val = s.inputs[n].slot.isSome := by
  have hn := n.isLt
  dsimp only
  rw [BitVec.getLsbD_or, BitVec.getLsbD_or, getLsbD_setByte 4 _ (by omega), getLsbD_setByte 0 _ (by omega),
    getLsbD_setByte 4 _ (by omega), getLsbD_setByte 0 _ (by omega), Nat.add_sub_cancel_left, Nat.sub_zero,
    Nat.sub_zero, getD_map_toList Input.slotInFlight, getD_map_toList Input.holdsCapture]
  simp [Input.holdsCapture, hn, List.getD]

/-- The three bits of a running kind, by the kind (R174). -/
theorem runningCode_of_running {c : Channel} {p : Program} (hrunning : c.running = some p)
    (hne : p.kind ≠ .levelOff) : p.kind = .pulse ∧ runningCode c = 1 ∨ p.kind = .retrig ∧ runningCode c = 2 ∨
      p.kind = .train ∧ runningCode c = 3 ∨ p.kind = .square ∧ runningCode c = 4 ∨
        p.kind = .levelOn ∧ runningCode c = 5 := by
  have hcode : c.runningKind = some p.kind := congrArg (Option.map Program.kind) hrunning
  unfold runningCode
  rw [hcode]
  cases hkind : p.kind with
  | pulse => simp
  | retrig => simp
  | train => simp
  | square => simp
  | levelOn => simp
  | levelOff => exact absurd hkind hne

/-- The state byte of a channel in a STATUS body (R97, R174). -/
theorem State.byteAt_status_state (s : State) (c : ChannelId) : byteAt (s.body .status) (17 + 2 * c.val) =
    (phaseCode s.channels[c].phase ++ 0#5 : BitVec 8) ||| (runningCode s.channels[c]).setWidth 8 := by
  rw [← runningKindCode_eq]
  exact s.byteAt_status_channel c (j := 0) (by decide)

/-- The mark byte of a channel in a STATUS body (R97, R174). -/
theorem State.byteAt_status_marks (s : State) (c : ChannelId) : byteAt (s.body .status) (18 + 2 * c.val) =
    bitAt 3 s.channels[c].waiting.isSome ||| bitAt 2 s.channels[c].late ||| bitAt 1 s.channels[c].overwritten
      ||| bitAt 0 s.channels[c].active := by
  rw [show 18 + 2 * c.val = 17 + 2 * c.val + 1 by omega]
  exact s.byteAt_status_channel c (j := 1) (by decide)

/-- The set bits of the overrun byte are those of the inputs (R125). -/
theorem State.overrunBits (s : State) : (∀ n : InputId,
    (setByte 0 (s.inputs.toList.map Input.slotOverrun)).getLsbD n.val = s.inputs[n].slotOverrun) ∧
      (setByte 0 (s.inputs.toList.map Input.slotOverrun)).extractLsb' 4 4 = 0 := by
  constructor
  · intro n
    rw [getLsbD_setByte 0 _ (by omega), Nat.sub_zero, getD_map_toList Input.slotOverrun]
    simp
  · refine BitVec.eq_of_getLsbD_eq fun i hi => ?_
    rw [BitVec.getLsbD_extractLsb', getLsbD_setByte 0 _ (by omega)]
    simp [List.getD]

/-! ### PEERS (R160, R175) -/

/-- A summary shows faults when one of the bits 0 to 12 is set (R160). -/
theorem Summary.hasFaults_iff {m : Summary} : m.hasFaults = true ↔ ∃ n, n ≤ 12 ∧ m.faults.getLsbD n = true := by
  rw [Summary.hasFaults, decide_eq_true_eq]
  constructor
  · intro hne
    by_contra hnone
    refine hne (BitVec.eq_of_getLsbD_eq fun n hn => ?_)
    have hclear : m.faults.getLsbD n = false := Bool.eq_false_iff.mpr fun hset => hnone ⟨n, by omega, hset⟩
    simp [hclear]
  · rintro ⟨n, hn, hset⟩ hzero
    have hbit := congrArg (fun x : BitVec 13 => x.getLsbD n) hzero
    simp [hset, show n < 13 by omega] at hbit

/-- The byte of a peer in a PEERS body (R175). -/
theorem State.byteAt_peers (s : State) (x : StationId) : byteAt (s.body .peers) x.val = peerByte s.peers[x] :=
  byteAt_of_getElem? (by rw [State.body, State.peersBody, List.getElem?_map, getElem?_toList]; rfl)

/-- The lead of a peer in the lead body of the first sixteen (R175). -/
theorem State.field16_leadsLo (s : State) (x : StationId) (h : x.val < 16) :
    field16 (s.body .leadsLo) (2 * x.val) = s.peers[x].lead :=
  field16_eq_of_bytes fun _ hj => byteAt_flatMap (f := fun p : Peer => bytes16 p.lead) (fun _ => rfl)
    ((List.getElem?_take_of_lt h).trans (getElem?_toList s.peers x)) hj

/-- The lead of a peer in the lead body of the others (R175). -/
theorem State.field16_leadsHi (s : State) (x : StationId) (h : 16 ≤ x.val) :
    field16 (s.body .leadsHi) (2 * (x.val - 16)) = s.peers[x].lead :=
  field16_eq_of_bytes fun _ hj => byteAt_flatMap (f := fun p : Peer => bytes16 p.lead) (fun _ => rfl)
    (by rw [List.getElem?_drop, Nat.add_sub_cancel' h, getElem?_toList]) hj

/-! ### QUEUE (R65, R175) -/

/-- The bytes of an entry in a QUEUE body. -/
theorem State.byteAt_queue (s : State) {i j : Nat} {e : CueEntry} (hi : i < 7) (he : s.queue[i]? = some e)
    (hj : j < 8) : byteAt (s.body .queue) (1 + 8 * i + j) = byteAt (entryBytes e) j := by
  rw [show 1 + 8 * i + j = 8 * i + j + 1 by omega]
  exact byteAt_flatMap (f := entryBytes) (fun _ => rfl) ((List.getElem?_take_of_lt hi).trans he) hj

/-! ### The layouts -/

/-- Settles O37: the bodies of the five selectors, byte by byte. -/
theorem reportBodyLayouts : Obligations.ReportBodyLayouts := by
  refine ⟨fun s hlist hqueue hsound => ?_, fun s => ⟨?_, ?_, ?_, fun x => ?_,
    fun x => ⟨s.field16_leadsLo x, s.field16_leadsHi x⟩, ?_, rfl, fun i e hi he => ?_⟩⟩
  · intro b
    obtain ⟨hmute, hopen, hannounced, hunused, hcount⟩ := accessBits s.mute (decide (s.line.mode = .openRound))
      s.announced ⟨s.line.txList.length, by omega⟩
    obtain ⟨hoverrun, hrest⟩ := s.overrunBits
    refine ⟨?_, ?_, hmute, hopen, hannounced, hunused, hcount, fun x hx => ?_, ?_, ?_, ?_, ?_, ?_, fun c => ?_,
      fun n => ⟨(s.captureBits n).1, (s.captureBits n).2, hoverrun n⟩, hrest, fun c => ?_⟩
    · rw [show b = _ from s.body_status, List.length_append, s.stationBytes_length,
        length_flatMap_of_length (k := 2) fun _ => rfl, Vector.length_toList]
    · change lifeCode s.loader.life = _
      cases s.loader.life <;> rfl
    · change (lastSenderByte s.line.lastSender).toNat = _
      rw [hx]
      exact originByte_message x
    · exact field16_eq_of_bytes fun j hj => by interval_cases j <;> rfl
    · exact field16_eq_of_bytes fun j hj => by interval_cases j <;> rfl
    · change reasonCode s.faults.reason = _
      cases s.faults.reason <;> rfl
    · exact field40_eq_of_bytes fun j hj => by interval_cases j <;> rfl
    · change (BitVec.ofNat 8 s.queue.length).toNat = _
      rw [BitVec.toNat_ofNat, Nat.mod_eq_of_lt (by omega)]
    · change (setByte 0 (s.staging.toList.map Option.isSome)).getLsbD c.val = _
      rw [getLsbD_setByte 0 _ c.isLt, Nat.sub_zero, getD_map_toList Option.isSome]
      simp
    · obtain ⟨hphase, hzero, hkind⟩ := stateBits (phaseCode s.channels[c].phase) (runningCode s.channels[c])
      obtain ⟨hmarks, hwaiting, hlate, hover, hactive⟩ := markBits s.channels[c].waiting.isSome s.channels[c].late
        s.channels[c].overwritten s.channels[c].active
      rw [s.byteAt_status_state c, s.byteAt_status_marks c]
      refine ⟨hphase.trans ?_, hzero, fun hnone => hkind.trans ?_, fun p hrunning => ?_, hmarks, hwaiting, hlate,
        hover, hactive⟩
      · cases s.channels[c].phase <;> rfl
      · have hidle : s.channels[c].runningKind = none := congrArg (Option.map Program.kind) hnone
        rw [runningCode, hidle]
      · rw [hkind]
        exact runningCode_of_running hrunning ((hsound c).1.kind_ne_levelOff hrunning)
  · simp [State.body, State.peersBody]
  · rw [State.body, leadsBody, length_flatMap_of_length (k := 2) fun _ => rfl]
    simp
  · rw [State.body, leadsBody, length_flatMap_of_length (k := 2) fun _ => rfl]
    simp
  · obtain ⟨hpresence, hlost, hsummary, hfaults, hruns, hunused⟩ := peerBits (presenceCode s.peers[x].presence)
      s.peers[x].lost s.peers[x].summary.isSome (s.peers[x].summary.any Summary.hasFaults)
      (s.peers[x].summary.any fun m : Summary => decide (m.life = 3))
    rw [s.byteAt_peers x]
    refine ⟨hpresence.trans ?_, hlost, hsummary, ?_, ?_, hunused⟩
    · cases s.peers[x].presence <;> rfl
    · rw [peerByte, hfaults, Option.any_eq_true]
      simp only [Summary.hasFaults_iff]
    · rw [peerByte, hruns, Option.any_eq_true]
      simp only [decide_eq_true_eq]
  · rw [State.body, State.queueBody, List.length_cons, length_flatMap_of_length (k := 8) fun _ => rfl,
      List.length_take]
    omega
  · have hbytes := fun {j : Nat} (hj : j < 8) => s.byteAt_queue hi he hj
    have hchannel := hbytes (j := 5) (by decide)
    have horigin := hbytes (j := 6) (by decide)
    have htag := hbytes (j := 7) (by decide)
    rw [show 1 + 8 * i + 5 = 6 + 8 * i by omega] at hchannel
    rw [show 1 + 8 * i + 6 = 7 + 8 * i by omega] at horigin
    rw [show 1 + 8 * i + 7 = 8 + 8 * i by omega] at htag
    refine ⟨field40_eq_of_bytes fun j hj => (hbytes (by omega)).trans (byteAt_append_left hj _), ?_, fun x hx => ?_,
      fun n hn => ?_, htag⟩
    · rw [hchannel]
      exact Nat.mod_eq_of_lt (by omega)
    · rw [horigin]
      change (originByte e.content.origin).toNat = _
      rw [hx]
      exact originByte_message x
    · rw [horigin]
      change (originByte e.content.origin).toNat = _
      rw [hn]
      exact originByte_binding n

end Sys2Proof.Machine
end

section
/-! PROOF. The pins: FAULT and SYNC, the transmitter and the memory read (R18, R20, R149, R166, R178). -/

namespace Sys2Proof.Machine

/-! ### FAULT (R166) -/

/-- FAULT shows the unconfigured station and the flags that are not masked (R166). -/
theorem State.faultLine_iff (s : State) : s.faultLine = true ↔ s.loader.life = .unconfigured ∨
    ∃ n, n < 13 ∧ s.faults.flags.getLsbD n = true ∧ s.faults.mask.getLsbD n = false := by
  rw [State.faultLine, Bool.or_eq_true, decide_eq_true_eq, decide_eq_true_eq, and_ne_zero_iff_shared]
  refine or_congr_right (exists_congr fun n => and_congr_right fun hn => and_congr_right fun _ => ?_)
  simp [hn]

/-! ### LTX (R20, R149) -/

/-- The levels of the halves of a bit stand at twice its place (R20). -/
theorem getElem?_flatMap_halfLevels {l : List Bool} {i : Nat} {b : Bool} (h : l[i]? = some b) :
    (l.flatMap halfLevels)[2 * i]? = some (!b) ∧ (l.flatMap halfLevels)[2 * i + 1]? = some b := by
  induction l generalizing i with
  | nil => simp at h
  | cons x rest ih =>
    rw [List.flatMap_cons, halfLevels]
    cases i with
    | zero =>
      obtain rfl : x = b := by simpa using h
      exact ⟨rfl, rfl⟩
    | succ i => exact ih (by simpa using h)

/-- A bit time is two whole halves (R20). -/
theorem Params.bitTicks_halves (p : Params) : p.bitTicks = 2 * (p.bitTicks / 2) ∧ 1 ≤ p.bitTicks / 2 := by
  unfold Params.bitTicks
  split <;> omega

/-- While the transmitter is driven LTX has the level of its half bit (R149). -/
theorem State.ltx_of_ltxe {s : State} {x : Transmission} (hown : s.line.episode = .own x) (hdriven : s.ltxe = true) :
    s.ltx = (lineLevels x.bytes)[(s.cfg.frameTicks x.bytes - x.left) / (s.cfg.bitTicks / 2)]? := by
  rw [State.ltx, hown]
  exact if_pos hdriven

/-- While the transmitter is not driven LTX has no level (R149). -/
theorem State.ltx_of_not_ltxe {s : State} (h : s.ltxe = false) : s.ltx = none := by
  unfold State.ltx
  split
  · exact if_neg (by simp [h])
  · rfl
  · rfl
  · rfl
  · rfl
  · rfl

/-- Without an own frame the transmitter is not driven (R149). -/
theorem State.ltxe_of_not_own {s : State} (h : ∀ x, s.line.episode ≠ .own x) : s.ltxe = false := by
  unfold State.ltxe
  split
  next x hown => exact absurd hown (h x)
  · rfl
  · rfl
  · rfl
  · rfl
  · rfl

/-- The transmitter is driven up to the end of the last bit (R149). -/
theorem State.ltxe_of_own {s : State} {x : Transmission} (hown : s.line.episode = .own x) :
    s.ltxe = true ↔ x.driving = true ∧ 2 * s.cfg.bitTicks < x.left := by
  rw [State.ltxe, hown, Bool.and_eq_true, decide_eq_true_eq]

/-- The level at LTX in each half of a bit (R20, R149). -/
theorem State.ltx_of_bit {s : State} {x : Transmission} (hown : s.line.episode = .own x) (hdriven : s.ltxe = true)
    {i : Nat} {b : Bool} (hbit : (lineBits x.bytes)[i]? = some b) {sent : Nat}
    (hsent : s.cfg.frameTicks x.bytes - x.left = sent) :
    (s.cfg.bitTicks * i ≤ sent → sent < s.cfg.bitTicks * i + s.cfg.bitTicks / 2 → s.ltx = some (!b)) ∧
    (s.cfg.bitTicks * i + s.cfg.bitTicks / 2 ≤ sent → sent < s.cfg.bitTicks * (i + 1) → s.ltx = some b) := by
  obtain ⟨hhalves, hpos⟩ := s.cfg.bitTicks_halves
  obtain ⟨hfirst, hsecond⟩ := getElem?_flatMap_halfLevels hbit
  rw [State.ltx_of_ltxe hown hdriven, hsent, lineLevels]
  generalize s.cfg.bitTicks / 2 = half at hhalves hpos ⊢
  rw [hhalves]
  constructor
  · intro hlow hhigh
    have hplace : sent / half = 2 * i := Nat.div_eq_of_lt_le (by nlinarith) (by nlinarith)
    rw [hplace, hfirst]
  · intro hlow hhigh
    have hplace : sent / half = 2 * i + 1 := Nat.div_eq_of_lt_le (by nlinarith) (by nlinarith)
    rw [hplace, hsecond]

/-! ### MCK and MDO (R178) -/

/-- The command bits: of the 24 the seventh and the eighth are ones (R178). -/
theorem readCommand_ones : ∀ i : Fin 24, readCommand.getD i.val false = true ↔ i.val = 6 ∨ i.val = 7 := by
  decide

/-- MDO in a command or address cycle (R178). -/
theorem mdoAt_of_bit {t i : Nat} (h : mdoBitNumber t = i) (hi : i < 24) : mdoAt t = true ↔ i = 6 ∨ i = 7 := by
  rw [mdoAt, h, if_pos hi]
  exact readCommand_ones ⟨i, hi⟩

/-- Settles O50: the pins of the fault unit, the timebase, the transmitter and the memory read. -/
theorem faultSyncAndReadPins : Obligations.FaultSyncAndReadPins := by
  refine ⟨fun s => ⟨s.faultLine_iff, decide_eq_true_iff, Option.isSome_iff_ne_none⟩, fun s =>
    ⟨fun hnone => ⟨State.ltxe_of_not_own hnone, State.ltx_of_not_ltxe (State.ltxe_of_not_own hnone)⟩, fun x hown =>
      ⟨State.ltxe_of_own hown, State.ltx_of_not_ltxe, fun hdriven i b hbit => State.ltx_of_bit hown hdriven hbit rfl⟩⟩,
    Config.mckRise.val, mckHighTicks, Config.mdoDelay % (8 - mckHighTicks), Config.mckRise.isLt, ?_, ?_,
    fun s => ⟨fun hnone => ?_, fun left hleft => ?_⟩⟩
  · exact mckHighTicks_range.1
  · have hhigh := mckHighTicks_range
    have := Nat.mod_lt Config.mdoDelay (show 8 - mckHighTicks > 0 by omega)
    omega
  · rw [State.mck, State.mdo, hnone]
    exact ⟨rfl, rfl⟩
  · have hmck : s.mck = mckAt (20800 - left) := by rw [State.mck, hleft]; rfl
    have hmdo : s.mdo = mdoAt (20800 - left) := by rw [State.mdo, hleft]; rfl
    rw [hmck, hmdo]
    refine ⟨by simp [mckAt, and_assoc], fun hbefore => ?_, fun i hi hlow hhigh => mdoAt_of_bit ?_ hi⟩
    · have hnumber : mdoBitNumber (20800 - left) = 0 := if_pos hbefore
      exact Bool.eq_false_iff.mpr fun hone => by simpa using (mdoAt_of_bit hnumber (by decide)).mp hone
    · change (if 20800 - left < mdoFirstChange then 0 else (20800 - left - mdoFirstChange) / 8 + 1) = i
      have hchange : mdoFirstChange = Config.mckRise.val + mckHighTicks + Config.mdoDelay % (8 - mckHighTicks) := rfl
      rw [← hchange] at hlow hhigh
      split <;> omega

end Sys2Proof.Machine
end

section
/-! PROOF. The frame check and the bytes of a frame (R23, R24, R25, R34). -/

namespace Sys2Proof.Machine

/-! ### The frame check (R24) -/

/-- One bit of the frame check against one bit of the message (R24). -/
def crcStep (c : BitVec 16) (bit : Bool) : BitVec 16 := if c.msb = bit then c <<< 1 else (c <<< 1) ^^^ 0x1021

/-- The next bits of a register, most significant first. -/
def topBits : Nat → BitVec 16 → List Bool
  | 0, _ => []
  | n + 1, y => y.msb :: topBits n (y <<< 1)

/-- A register that holds message bits takes a step with the first of them. -/
theorem crcBit_xor (c y : BitVec 16) : crcBit (c ^^^ y) = crcStep c y.msb ^^^ (y <<< 1) := by
  have hshift : (c ^^^ y) <<< 1 = c <<< 1 ^^^ y <<< 1 := BitVec.shiftLeft_xor_distrib c y 1
  rw [crcBit, crcStep, BitVec.msb_xor, hshift]
  by_cases hbit : c.msb = y.msb
  · simp [hbit]
  · rw [if_pos (by simpa using hbit), if_neg hbit, BitVec.xor_assoc, BitVec.xor_assoc,
      BitVec.xor_comm (y <<< 1)]

/-- Message bits in the register count as bits that come one by one. -/
theorem crcBits_xor (n : Nat) (c y : BitVec 16) :
    crcBits n (c ^^^ y) = (topBits n y).foldl crcStep c ^^^ (y <<< n) := by
  induction n generalizing c y with
  | zero => simp [crcBits, topBits]
  | succ n ih =>
    rw [crcBits, crcBit_xor, ih, topBits, List.foldl_cons, ← BitVec.shiftLeft_add, Nat.add_comm 1 n]

/-- The top bits of a byte in the register are the bits of the byte. -/
theorem topBits_byte (b : Byte) : topBits 8 (b.setWidth 16 <<< 8) = [7, 6, 5, 4, 3, 2, 1, 0].map b.getLsbD := by
  simp [topBits, BitVec.msb_eq_getLsbD_last]

/-- The frame check of one more byte, bit by bit (R24). -/
theorem crc16_append (l : List Byte) (b : Byte) :
    crc16 (l ++ [b]) = [7, 6, 5, 4, 3, 2, 1, 0].foldl (fun c i => crcStep c (b.getLsbD i)) (crc16 l) := by
  have hgone : (b.setWidth 16 <<< 8 : BitVec 16) <<< 8 = 0#16 := by
    rw [← BitVec.shiftLeft_add]
    exact BitVec.shiftLeft_eq_zero (by decide)
  rw [crc16, List.foldl_append, List.foldl_cons, List.foldl_nil, crcByte, crcBits_xor, topBits_byte, hgone,
    BitVec.xor_zero, List.foldl_map]
  rfl

/-! ### The header (R23) -/

/-- The parts of byte 0 (R23). -/
theorem kindByte_parts : ∀ (k : BitVec 4) (m : BitVec 2),
    let b : Byte := k ++ m ++ 0#2
    b.extractLsb' 0 2 = 0 ∧ b.extractLsb' 2 2 = m ∧ b.extractLsb' 4 4 = k := by
  decide

/-- Byte 0 from its parts (R23). -/
theorem kindByte_of_parts (b : Byte) (h : b.extractLsb' 0 2 = 0) :
    b.extractLsb' 4 4 ++ b.extractLsb' 2 2 ++ 0#2 = b := by
  rw [show 0#2 = b.extractLsb' 0 2 from h.symm,
    BitVec.extractLsb'_append_extractLsb'_eq_extractLsb' (start₁ := 2) (start₂ := 4) rfl,
    BitVec.extractLsb'_append_extractLsb'_eq_extractLsb' (start₁ := 0) (start₂ := 2) rfl]
  exact BitVec.extractLsb'_eq_self

/-- The parts of byte 1 (R23). -/
theorem senderByte_parts : ∀ x : StationId, (BitVec.ofNat 8 x.val).extractLsb' 5 3 = 0 ∧
    ((BitVec.ofNat 8 x.val).extractLsb' 0 5).toFin = x := by
  decide

/-- Byte 1 from its parts (R23). -/
theorem senderByte_of_parts (b : Byte) (h : b.extractLsb' 5 3 = 0) :
    BitVec.ofNat 8 (b.extractLsb' 0 5).toFin.val = b := by
  have hzero := congrArg BitVec.toNat h
  have hsize := b.isLt
  rw [BitVec.extractLsb'_toNat, Nat.shiftRight_eq_div_pow] at hzero
  refine BitVec.eq_of_toNat_eq ?_
  rw [BitVec.toNat_ofNat]
  change (b.extractLsb' 0 5).toNat % 2 ^ 8 = b.toNat
  rw [BitVec.extractLsb'_toNat, Nat.shiftRight_zero]
  change b.toNat / 2 ^ 5 % 2 ^ 3 = 0 at hzero
  omega

/-- A destination mode is read from its code (R23). -/
theorem modeOf_eq_some_iff {code : BitVec 2} {m : DestMode} : modeOf code = some m ↔ modeCode m = code := by
  revert code
  cases m <;> decide

/-! ### The frame (R23 to R25) -/

/-- The bytes of a frame, the header byte by byte (R23, R24). -/
theorem frameBytes_eq (k : BitVec 4) (f : Frame) : frameBytes k f =
    (k ++ modeCode f.destMode ++ 0#2 : Byte) :: BitVec.ofNat 8 f.sender.val :: f.dest.extractLsb' 8 8 ::
      f.dest.extractLsb' 0 8 :: f.stamp.extractLsb' 32 8 :: f.stamp.extractLsb' 24 8 :: f.stamp.extractLsb' 16 8 ::
      f.stamp.extractLsb' 8 8 :: f.stamp.extractLsb' 0 8 :: BitVec.ofNat 8 f.payload.length ::
      (f.payload ++ bytes16 (crc16 (frameBody k f))) := rfl

theorem frameBody_length (k : BitVec 4) (f : Frame) : (frameBody k f).length = 10 + f.payload.length := by
  simp [frameBody, bytes16, bytes40]
  omega

theorem frameBytes_length (k : BitVec 4) (f : Frame) : (frameBytes k f).length = 12 + f.payload.length := by
  rw [frameBytes, List.length_append, frameBody_length]
  change 10 + f.payload.length + 2 = _
  omega

/-- What stands before the frame check (R24). -/
theorem take_frameBytes (k : BitVec 4) (f : Frame) : (frameBytes k f).take (10 + f.payload.length) = frameBody k f := by
  rw [← frameBody_length k f, frameBytes, List.take_left]

/-- The frame check stands last (R24). -/
theorem field16_frameBytes (k : BitVec 4) (f : Frame) :
    field16 (frameBytes k f) (10 + f.payload.length) = crc16 (frameBody k f) :=
  field16_eq_of_bytes fun j _ => by rw [← frameBody_length k f, frameBytes, byteAt_append_right]

/-- The length byte of a frame (R23). -/
theorem lengthByte_toNat {n : Nat} (h : n ≤ 64) : (BitVec.ofNat 8 n).toNat = n := by
  rw [BitVec.toNat_ofNat, Nat.mod_eq_of_lt (by omega)]

/-- The bytes of a frame read back as the frame (R23 to R25). -/
theorem readFrame_frameBytes (k : BitVec 4) (f : Frame) (h : f.payload.length ≤ 64) :
    readFrame (frameBytes k f) = some (k, f) := by
  obtain ⟨hzero, hmode, hkind⟩ := kindByte_parts k (modeCode f.destMode)
  obtain ⟨hzero', hsender⟩ := senderByte_parts f.sender
  have hlen := lengthByte_toNat h
  have hend : (frameBytes k f).length - 2 = 10 + f.payload.length := by
    rw [frameBytes_length]
    omega
  have hgood : lengthAndCheckOk (frameBytes k f) (BitVec.ofNat 8 f.payload.length)
      (f.payload ++ bytes16 (crc16 (frameBody k f))) = true := by
    rw [lengthAndCheckOk, hlen, hend, take_frameBytes, field16_frameBytes]
    simp [h, bytes16]
  have hdest : f.dest.extractLsb' 8 8 ++ f.dest.extractLsb' 0 8 = f.dest := field16_bytes16 f.dest
  have hstamp : f.stamp.extractLsb' 32 8 ++ f.stamp.extractLsb' 24 8 ++ f.stamp.extractLsb' 16 8 ++
      f.stamp.extractLsb' 8 8 ++ f.stamp.extractLsb' 0 8 = f.stamp := field40_bytes40 f.stamp
  rw [frameBytes_eq] at hgood ⊢
  unfold readFrame
  dsimp only
  rw [if_pos (by rw [hgood, Bool.and_true]; simp [mustZeroOk, hzero, hzero']), hmode,
    modeOf_eq_some_iff.mpr rfl, hkind, hsender, hdest, hstamp, hlen, List.take_left]

/-- The two bytes of a field made of two bytes. -/
theorem bytes16_append (x y : Byte) : bytes16 (x ++ y) = [x, y] := by
  have hhigh : (x ++ y : BitVec 16).extractLsb' 8 8 = x := BitVec.extractLsb'_append_eq_left
  have hlow : (x ++ y : BitVec 16).extractLsb' 0 8 = y := BitVec.extractLsb'_append_eq_right
  rw [bytes16, hhigh, hlow]

/-- The five bytes of a field made of five bytes. -/
theorem bytes40_append (a b c d e : Byte) : bytes40 (a ++ b ++ c ++ d ++ e) = [a, b, c, d, e] := by
  have he : (a ++ b ++ c ++ d ++ e : BitVec 40).extractLsb' 0 8 = e := BitVec.extractLsb'_append_eq_right
  have hd : (a ++ b ++ c ++ d ++ e : BitVec 40).extractLsb' 8 8 = d :=
    (BitVec.extractLsb'_append_eq_of_le (xlo := e) (by decide)).trans BitVec.extractLsb'_append_eq_right
  have hc : (a ++ b ++ c ++ d ++ e : BitVec 40).extractLsb' 16 8 = c :=
    (BitVec.extractLsb'_append_eq_of_le (xlo := e) (by decide)).trans
      ((BitVec.extractLsb'_append_eq_of_le (xlo := d) (by decide)).trans BitVec.extractLsb'_append_eq_right)
  have hb : (a ++ b ++ c ++ d ++ e : BitVec 40).extractLsb' 24 8 = b :=
    (BitVec.extractLsb'_append_eq_of_le (xlo := e) (by decide)).trans
      ((BitVec.extractLsb'_append_eq_of_le (xlo := d) (by decide)).trans
        ((BitVec.extractLsb'_append_eq_of_le (xlo := c) (by decide)).trans BitVec.extractLsb'_append_eq_right))
  have ha : (a ++ b ++ c ++ d ++ e : BitVec 40).extractLsb' 32 8 = a :=
    (BitVec.extractLsb'_append_eq_of_le (xlo := e) (by decide)).trans
      ((BitVec.extractLsb'_append_eq_of_le (xlo := d) (by decide)).trans
        ((BitVec.extractLsb'_append_eq_of_le (xlo := c) (by decide)).trans BitVec.extractLsb'_append_eq_left))
  rw [bytes40, he, hd, hc, hb, ha]

/-- A list ends in the two bytes of its last field. -/
theorem take_append_field16 {l : List Byte} (h : 2 ≤ l.length) :
    l.take (l.length - 2) ++ bytes16 (field16 l (l.length - 2)) = l := by
  have htwo : (l.drop (l.length - 2)).length = 2 := by
    rw [List.length_drop]
    omega
  obtain ⟨x, y, hlast⟩ := List.length_eq_two.mp htwo
  have hl : l.take (l.length - 2) ++ [x, y] = l := by rw [← hlast, List.take_append_drop]
  have hat (j : Nat) : byteAt l (l.length - 2 + j) = byteAt [x, y] j := by
    have hfront : (l.take (l.length - 2)).length = l.length - 2 := by simp
    calc byteAt l (l.length - 2 + j)
        = byteAt (l.take (l.length - 2) ++ [x, y]) ((l.take (l.length - 2)).length + j) := by rw [hl, hfront]
      _ = byteAt [x, y] j := byteAt_append_right _ _ _
  have hfield : field16 l (l.length - 2) = x ++ y := congrArg₂ (· ++ ·) (hat 0) (hat 1)
  rw [hfield, bytes16_append, hl]

/-- What reads as a frame is the bytes of that frame (R23 to R25). -/
theorem eq_frameBytes_of_readFrame {l : List Byte} {k : BitVec 4} {f : Frame} (h : readFrame l = some (k, f)) :
    f.payload.length ≤ 64 ∧ l = frameBytes k f := by
  unfold readFrame at h
  split at h
  next b0 b1 d0 d1 t0 t1 t2 t3 t4 len rest =>
    split at h
    next hgood =>
      obtain ⟨hzero, hcheck⟩ := Bool.and_eq_true_iff.mp hgood
      obtain ⟨hzero0, hzero1⟩ : b0.extractLsb' 0 2 = 0 ∧ b1.extractLsb' 5 3 = 0 := by simpa [mustZeroOk] using hzero
      obtain ⟨⟨hlen, hrest⟩, hcrc⟩ : (len.toNat ≤ 64 ∧ rest.length = len.toNat + 2) ∧ _ := by
        simpa only [lengthAndCheckOk, Bool.and_eq_true, decide_eq_true_eq] using hcheck
      split at h
      · cases h
      next mode hmode =>
        cases h
        have hpayload : (rest.take len.toNat).length = len.toNat := by
          rw [List.length_take]
          omega
        refine ⟨hpayload.trans_le hlen, ?_⟩
        have hkind : b0.extractLsb' 4 4 ++ modeCode mode ++ 0#2 = b0 := by
          rw [modeOf_eq_some_iff.mp hmode]
          exact kindByte_of_parts b0 hzero0
        have hbody : (b0 :: b1 :: d0 :: d1 :: t0 :: t1 :: t2 :: t3 :: t4 :: len :: rest).take
            ((b0 :: b1 :: d0 :: d1 :: t0 :: t1 :: t2 :: t3 :: t4 :: len :: rest).length - 2) =
              frameBody (b0.extractLsb' 4 4) ⟨(b1.extractLsb' 0 5).toFin, mode, d0 ++ d1,
                t0 ++ t1 ++ t2 ++ t3 ++ t4, rest.take len.toNat⟩ := by
          rw [frameBody, hkind, senderByte_of_parts b1 hzero1, bytes16_append, bytes40_append, hpayload,
            BitVec.ofNat_toNat, BitVec.setWidth_eq, show (b0 :: b1 :: d0 :: d1 :: t0 :: t1 :: t2 :: t3 :: t4 :: len ::
              rest).length - 2 = len.toNat + 10 by simp only [List.length_cons]; omega]
          rfl
        rw [frameBytes, ← hbody, hcrc, take_append_field16 (by simp only [List.length_cons]; omega)]
    · cases h
  · cases h

end Sys2Proof.Machine
end

section
/-! PROOF. The levels of a frame, and the judgment of what a receiver has of them (R20 to R22, R25, R28, R30). -/

namespace Sys2Proof.Machine

/-! ### The levels of some bits (R20) -/

/-- A pair of levels at an even place of some bits' levels is a bit of them. -/
theorem flatMap_halfLevels_split {l before after : List Bool} {a b : Bool} {i : Nat}
    (h : l.flatMap halfLevels = before ++ a :: b :: after) (hlen : before.length = 2 * i) :
    ∃ pre post, l = pre ++ b :: post ∧ pre.length = i ∧ before = pre.flatMap halfLevels ∧
      after = post.flatMap halfLevels := by
  induction i generalizing l before with
  | zero =>
    obtain rfl : before = [] := List.length_eq_zero_iff.mp hlen
    cases l with
    | nil => cases h
    | cons x rest =>
      injection h with _ h
      injection h with hb h
      exact ⟨[], rest, by rw [← hb]; rfl, rfl, rfl, h.symm⟩
  | succ i ih =>
    match before, hlen with
    | x :: y :: before, hlen =>
      cases l with
      | nil => cases h
      | cons bit rest =>
        injection h with hx h
        injection h with hy h
        obtain ⟨pre, post, hl, hpre, hbefore, hafter⟩ := ih h (by simp only [List.length_cons] at hlen; omega)
        refine ⟨bit :: pre, post, by rw [hl]; rfl, by rw [List.length_cons, hpre], ?_, hafter⟩
        rw [hbefore, ← hx, ← hy]
        rfl

/-- The levels of some bits end in those of the last (R20). -/
theorem flatMap_halfLevels_append (l : List Bool) (b : Bool) :
    (l ++ [b]).flatMap halfLevels = l.flatMap halfLevels ++ halfLevels b := by
  rw [List.flatMap_append, List.flatMap_singleton]

/-- The levels up to the last bit belong to the bits (R20). -/
theorem untilLastTransition_last (before : List Bool) (b : Bool) :
    untilLastTransition (before ++ halfLevels b) = before ++ halfLevels b := by
  have h := untilLastTransition_held before b 0
  rwa [List.replicate_zero, List.append_nil] at h

/-- An odd level behind some bits is no bit (R20). -/
theorem bitsOfLevels_odd (l : List Bool) (c : Bool) : bitsOfLevels (l.flatMap halfLevels ++ [c]) = none := by
  induction l with
  | nil => rfl
  | cons a l ih =>
    simp only [List.flatMap_cons, halfLevels, List.cons_append, List.nil_append, bitsOfLevels, ih]
    cases a <;> rfl

theorem byteBits_flatMap_length (bytes : List Byte) : (bytes.flatMap byteBits).length = 8 * bytes.length := by
  induction bytes with
  | nil => rfl
  | cons b rest ih =>
    rw [List.flatMap_cons, List.length_append, ih, List.length_cons]
    change 8 + 8 * rest.length = _
    omega

/-- Bits that are no whole bytes make none (R25). -/
theorem bytesOfBits_of_ragged {l : List Bool} (h : l.length % 8 ≠ 0) : bytesOfBits l = none := by
  by_contra hne
  obtain ⟨bytes, hbytes⟩ := Option.ne_none_iff_exists'.mp hne
  rw [byteBits_of_bytesOfBits l bytes hbytes, byteBits_flatMap_length] at h
  omega

/-! ### The judgment of levels (R21, R25) -/

/-- The levels of the preamble and the delimiter (R21). -/
def leadLevels : List Bool := (preambleBits ++ delimiterBits).flatMap halfLevels

theorem leadLevels_length : leadLevels.length = 48 := rfl

/-- The levels of the bytes of a frame (R20). -/
def byteLevels (bytes : List Byte) : List Bool := (bytes.flatMap byteBits).flatMap halfLevels

theorem lineLevels_eq_lead (bytes : List Byte) : lineLevels bytes = leadLevels ++ byteLevels bytes :=
  lineLevels_eq bytes

/-- The bytes of a frame end in a bit (R20). -/
theorem byteLevels_last {bytes : List Byte} (h : bytes ≠ []) :
    ∃ (bits : List Bool) (b : Bool), bytes.flatMap byteBits = bits ++ [b] ∧
      byteLevels bytes = bits.flatMap halfLevels ++ halfLevels b := by
  have hpos : 0 < (bytes.flatMap byteBits).length := by
    rw [byteBits_flatMap_length]
    have := List.length_pos_iff.mpr h
    omega
  obtain ⟨bits, b, hbits⟩ := (List.eq_nil_or_concat' _).resolve_left (List.length_pos_iff.mp hpos)
  exact ⟨bits, b, hbits, by rw [byteLevels, hbits, flatMap_halfLevels_append]⟩

/-- What is judged of a reception whose delimiter is found in time (R21, R25). -/
theorem judgeReception_of_found {r : Reception} {received after : List Bool}
    (hreceived : untilLastTransition r.levels = received) (hfound : afterDelimiter received = some after)
    (hsoon : received.length ≤ 64 + after.length) :
    judgeReception r = (bitsOfLevels after).bind fun bits => (bytesOfBits bits).bind readFrame := by
  unfold judgeReception
  dsimp only
  rw [hreceived, hfound]
  exact if_neg (by omega)

/-- Levels that give no bits make a bad episode (R25). -/
theorem judgeReception_of_ragged {r : Reception} {received after : List Bool}
    (hreceived : untilLastTransition r.levels = received) (hfound : afterDelimiter received = some after)
    (hbad : ((bitsOfLevels after).bind fun bits => (bytesOfBits bits).bind readFrame) = none) :
    judgeReception r = none := by
  unfold judgeReception
  dsimp only
  rw [hreceived, hfound]
  dsimp only
  split
  · rfl
  · exact hbad

/-- The levels of a frame's bytes read as the frame (R25). -/
theorem read_byteLevels {k : BitVec 4} {f : Frame} (h : f.payload.length ≤ 64) :
    ((bitsOfLevels (byteLevels (frameBytes k f))).bind fun bits => (bytesOfBits bits).bind readFrame) =
      some (k, f) := by
  rw [byteLevels, bitsOfLevels_halfLevels, Option.bind_some, bytesOfBits_flatMap, Option.bind_some,
    readFrame_frameBytes k f h]

theorem frameBytes_ne_nil (k : BitVec 4) (f : Frame) : frameBytes k f ≠ [] := List.cons_ne_nil _ _

/-- A frame whose reception begins within the preamble is good, however long its last level is held (R20 to R22). -/
theorem judgeReception_late {k : BitVec 4} {f : Frame} (h : f.payload.length ≤ 64) {n held : Nat} {last : Bool}
    (hn : n ≤ 32) (hlast : (lineLevels (frameBytes k f)).getLast? = some last) :
    judgeReception ⟨(lineLevels (frameBytes k f)).drop n ++ List.replicate held last⟩ = some (k, f) := by
  obtain ⟨bits, b, -, hlevels⟩ := byteLevels_last (frameBytes_ne_nil k f)
  have hdrop : (lineLevels (frameBytes k f)).drop n =
      leadLevels.drop n ++ bits.flatMap halfLevels ++ halfLevels b := by
    rw [lineLevels_eq_lead, List.drop_append_of_le_length (by rw [leadLevels_length]; omega), hlevels,
      List.append_assoc]
  obtain rfl : b = last := by
    rw [lineLevels_eq_lead, hlevels] at hlast
    simpa [halfLevels] using hlast
  refine (judgeReception_of_found (received := (lineLevels (frameBytes k f)).drop n)
    (after := byteLevels (frameBytes k f)) ?_ ?_ ?_).trans (read_byteLevels h)
  · rw [hdrop]
    exact untilLastTransition_held _ b held
  · rw [lineLevels_eq_lead]
    exact afterDelimiter_late n hn _
  · rw [lineLevels_eq_lead, List.length_drop, List.length_append, leadLevels_length]
    omega

/-- Of two beginnings of one list the shorter begins the longer. -/
theorem exists_append_of_append_eq {α : Type} {l₁ l₂ r₁ r₂ : List α} (h : l₁ ++ r₁ = l₂ ++ r₂)
    (hlen : l₁.length ≤ l₂.length) : ∃ m, l₂ = l₁ ++ m ∧ r₁ = m ++ r₂ := by
  rcases List.append_eq_append_iff.mp h with ⟨m, hl, hr⟩ | ⟨m, hl, hr⟩
  · exact ⟨m, hl, hr⟩
  · obtain rfl : m = [] := List.length_eq_zero_iff.mp (by rw [hl, List.length_append] at hlen; omega)
    exact ⟨[], by simpa using hl.symm, by simpa using hr.symm⟩

/-- A coding violation within the bytes makes a bad episode (R20, R25). -/
theorem judgeReception_violation {bytes : List Byte} {before after : List Bool} {a b c : Bool} {i : Nat}
    (hline : lineLevels bytes = before ++ a :: b :: after) (hlen : before.length = 2 * i) (hi : 24 ≤ i) :
    judgeReception ⟨before ++ c :: c :: after⟩ = none := by
  obtain ⟨pre, post, hbits, hpre, rfl, rfl⟩ := flatMap_halfLevels_split hline hlen
  obtain ⟨front, rfl, hbytes⟩ := exists_append_of_append_eq (l₁ := preambleBits ++ delimiterBits) hbits
    (by rw [hpre]; exact hi)
  have hlead : (preambleBits ++ delimiterBits ++ front).flatMap halfLevels = leadLevels ++ front.flatMap halfLevels :=
    List.flatMap_append
  have hfound (l : List Bool) : afterDelimiter (leadLevels ++ l) = some l := afterDelimiter_late 0 (by decide) l
  rw [hlead]
  rcases List.eq_nil_or_concat' post with rfl | ⟨most, e, rfl⟩
  · have hcount := congrArg List.length hbytes
    rw [byteBits_flatMap_length, List.length_append, List.length_singleton] at hcount
    have hragged : front.length % 8 ≠ 0 := by omega
    obtain ⟨first, d, rfl⟩ := (List.eq_nil_or_concat' front).resolve_left fun hnil => by simp [hnil] at hragged
    by_cases hsame : c = d
    · subst hsame
      refine judgeReception_of_ragged ?_ (hfound ((first ++ [c]).flatMap halfLevels)) ?_
      · rw [flatMap_halfLevels_append, ← List.append_assoc]
        exact untilLastTransition_held _ c 2
      · rw [bitsOfLevels_halfLevels, Option.bind_some, bytesOfBits_of_ragged hragged]
        rfl
    · have hd : d = !c := Bool.eq_not.mpr (Ne.symm hsame)
      refine judgeReception_of_ragged ?_ (hfound ((first ++ [d]).flatMap halfLevels ++ [c])) ?_
      · have hlevels : leadLevels ++ (first ++ [d]).flatMap halfLevels ++ [c] =
            leadLevels ++ first.flatMap halfLevels ++ [!d] ++ halfLevels c := by
          rw [flatMap_halfLevels_append, halfLevels, halfLevels, hd]
          simp
        have hheld := untilLastTransition_held (leadLevels ++ first.flatMap halfLevels ++ [!d]) c 1
        rw [← hlevels, List.append_assoc] at hheld
        rw [← List.append_assoc, ← hheld]
        simp
      · rw [bitsOfLevels_odd]
        rfl
  · refine judgeReception_of_ragged ?_ (hfound (front.flatMap halfLevels ++ c :: c ::
      (most ++ [e]).flatMap halfLevels)) ?_
    · have hlevels : leadLevels ++ (front.flatMap halfLevels ++ c :: c :: (most ++ [e]).flatMap halfLevels) =
          (leadLevels ++ (front.flatMap halfLevels ++ c :: c :: most.flatMap halfLevels)) ++ halfLevels e := by
        rw [flatMap_halfLevels_append]
        simp
      rw [List.append_assoc, hlevels]
      exact untilLastTransition_last _ e
    · rw [bitsOfLevels_violation]
      rfl

/-- A coding violation within the preamble does not harm the frame (R20, R21). -/
theorem judgeReception_early_violation {k : BitVec 4} {f : Frame} (h : f.payload.length ≤ 64)
    {before after : List Bool} {a b c : Bool} {i : Nat}
    (hline : lineLevels (frameBytes k f) = before ++ a :: b :: after) (hlen : before.length = 2 * i) (hi : i < 16) :
    judgeReception ⟨before ++ c :: c :: after⟩ = some (k, f) := by
  obtain ⟨bits, last, -, hlevels⟩ := byteLevels_last (frameBytes_ne_nil k f)
  have hsplit : (before ++ [a, b]) ++ after = leadLevels ++ byteLevels (frameBytes k f) := by
    rw [← lineLevels_eq_lead, hline, List.append_assoc]
    rfl
  obtain ⟨rest, hlead, rfl⟩ := exists_append_of_append_eq hsplit
    (by rw [List.length_append, hlen, leadLevels_length]; simp only [List.length_cons, List.length_nil]; omega)
  have hset : (leadLevels.set (2 * i) c).set (2 * i + 1) c = before ++ c :: c :: rest := by
    rw [hlead, ← hlen]
    simp
  have hjoin : before ++ c :: c :: (rest ++ byteLevels (frameBytes k f)) =
      (leadLevels.set (2 * i) c).set (2 * i + 1) c ++ byteLevels (frameBytes k f) := by
    rw [hset, List.append_assoc]
    rfl
  rw [hjoin]
  refine (judgeReception_of_found (received := (leadLevels.set (2 * i) c).set (2 * i + 1) c ++
    byteLevels (frameBytes k f)) ?_ (afterDelimiter_violation i hi c _) ?_).trans (read_byteLevels h)
  · rw [hlevels, ← List.append_assoc]
    exact untilLastTransition_last _ last
  · rw [List.length_append, List.length_set, List.length_set, leadLevels_length]
    omega

/-- A good episode holds the levels of its frame, from the delimiter on (R20 to R22, R25). -/
theorem levels_of_judgeReception {r : Reception} {k : BitVec 4} {f : Frame} (h : judgeReception r = some (k, f)) :
    f.payload.length ≤ 64 ∧ ∃ (lead : List Bool) (held : Nat) (last : Bool), lead.length ≤ 48 ∧
      (lineLevels (frameBytes k f)).getLast? = some last ∧
      r.levels = lead ++ (lineLevels (frameBytes k f)).drop 32 ++ List.replicate held last := by
  obtain ⟨levels⟩ := r
  unfold judgeReception at h
  dsimp only at h
  split at h
  · cases h
  next after hfound =>
    split at h
    · cases h
    next hsoon =>
      obtain ⟨bits, hbits, hrest⟩ := Option.bind_eq_some_iff.mp h
      obtain ⟨bytes, hbytes, hread⟩ := Option.bind_eq_some_iff.mp hrest
      obtain ⟨hlength, rfl⟩ := eq_frameBytes_of_readFrame hread
      have hafter : after = byteLevels (frameBytes k f) := by
        rw [halfLevels_of_bitsOfLevels after bits hbits, byteBits_of_bytesOfBits bits _ hbytes, byteLevels]
      have hne : byteLevels (frameBytes k f) ≠ [] := by
        obtain ⟨most, b, -, hlevels⟩ := byteLevels_last (frameBytes_ne_nil k f)
        simp [hlevels, halfLevels]
      obtain ⟨lead, hlead⟩ := afterDelimiter_eq_some _ _ hfound
      cases levels with
      | nil => cases hfound
      | cons a l =>
        obtain ⟨last, held, hlast, hheld⟩ := eq_untilLastTransition_held l a
        have hdrop : (lineLevels (frameBytes k f)).drop 32 = delimiterLevels ++ byteLevels (frameBytes k f) := by
          rw [lineLevels_eq_lead]
          rfl
        refine ⟨hlength, lead, held, last, ?_, ?_, ?_⟩
        · rw [hlead, List.length_append, List.length_append, show delimiterLevels.length = 16 from rfl] at hsoon
          omega
        · rw [hlead, hafter, List.getLast?_append_of_ne_nil _ hne] at hlast
          rw [lineLevels_eq_lead, List.getLast?_append_of_ne_nil _ hne, hlast]
        · rw [hdrop, ← hafter, ← List.append_assoc, ← hlead]
          exact hheld

/-! ### The row of a good frame (R26 to R28, R30, R171) -/

/-- The selector of a code, by the code (R171). -/
theorem selectorOf_eq (code : Byte) : selectorOf code =
    if code = 1 then some .status else if code = 2 then some .peers else if code = 3 then some .leadsLo
      else if code = 4 then some .leadsHi else if code = 5 then some .queue else none := by
  unfold selectorOf
  split
  next h => rw [show code = 1 from BitVec.eq_of_toNat_eq h]; rfl
  next h => rw [show code = 2 from BitVec.eq_of_toNat_eq h]; rfl
  next h => rw [show code = 3 from BitVec.eq_of_toNat_eq h]; rfl
  next h => rw [show code = 4 from BitVec.eq_of_toNat_eq h]; rfl
  next h => rw [show code = 5 from BitVec.eq_of_toNat_eq h]; rfl
  next h₁ h₂ h₃ h₄ h₅ =>
    rw [if_neg (fun h => h₁ (congrArg BitVec.toNat h)), if_neg (fun h => h₂ (congrArg BitVec.toNat h)),
      if_neg (fun h => h₃ (congrArg BitVec.toNat h)), if_neg (fun h => h₄ (congrArg BitVec.toNat h)),
      if_neg (fun h => h₅ (congrArg BitVec.toNat h))]

/-- The row of a PROBE by its selector (R171). -/
theorem probeCommand_eq (f : Frame) : probeCommand f =
    if f.payload.length ≠ 2 then .probeIgnored f
    else if byteAt f.payload 1 = 1 then .probeStatus f else if byteAt f.payload 1 = 2 then .probePeers f
    else if byteAt f.payload 1 = 3 then .probeLeadsLo f else if byteAt f.payload 1 = 4 then .probeLeadsHi f
    else if byteAt f.payload 1 = 5 then .probeQueue f else .probeIgnored f := by
  rw [probeCommand, selectorOf_eq]
  split_ifs <;> rfl

/-- The row of a good frame by its kind (R30). -/
theorem kindCommand_eq (k : BitVec 4) (f : Frame) : kindCommand k f =
    if k = 1 then .beacon f else if k = 2 then .edge f else if k = 3 then .schedule f
    else if k = 4 then .stage f else if k = 5 then .release f else if k = 6 then cancelCommand f
    else if k = 7 then probeCommand f else if k = 8 then .report f else if k = 9 then .clear f
    else if k = 10 then .restart f else .unknownKind k f := by
  obtain ⟨⟨n, hn⟩⟩ := k
  interval_cases n <;> rfl

/-- Settles O51: frames read back, and what is judged good is the levels of a frame. -/
theorem framesReadBack : Obligations.FramesReadBack := by
  refine ⟨fun k f h => ?_, ⟨rfl, crc16_append⟩, fun l k f hread => eq_frameBytes_of_readFrame hread,
    fun r k f hgood => levels_of_judgeReception hgood, fun ownId slots r => ⟨fun hbad => ?_, fun k f hgood => ?_⟩⟩
  · intro bytes n
    have hdest : field16 bytes 2 = f.dest := field16_eq_of_bytes fun j hj => by interval_cases j <;> rfl
    have hstamp : field40 bytes 4 = f.stamp := field40_eq_of_bytes fun j hj => by interval_cases j <;> rfl
    have hkind : byteAt bytes 0 = k ++ modeCode f.destMode ++ 0#2 := rfl
    refine ⟨readFrame_frameBytes k f h, ⟨frameBytes_length k f, ?_, originByte_message f.sender, hdest, hstamp,
      lengthByte_toNat h, List.take_left, ?_⟩, rfl, fun m held last hm hlast => judgeReception_late h hm hlast,
      fun i before after a b c hline hlen => ⟨fun hi => judgeReception_violation hline hlen hi,
        fun hi => judgeReception_early_violation h hline hlen hi⟩⟩
    · rw [hkind]
      cases f.destMode <;> rfl
    · rw [take_frameBytes]
      exact field16_frameBytes k f
  · rw [receptionCommand, hbad]
  · intro scope selector
    have hrow : receptionCommand ownId slots r = if slots ≤ f.sender.val then .foreignFrame
        else if f.sender = ownId then .clash else kindCommand k f := by
      rw [receptionCommand, hgood]
    refine ⟨fun hforeign => ?_, fun hmember hown => ?_, fun hmember hpeer => ?_⟩
    · rw [hrow, if_pos hforeign]
    · rw [hrow, if_neg (Nat.not_le.mpr hmember), if_pos hown]
    · rw [hrow, if_neg (Nat.not_le.mpr hmember), if_neg hpeer, kindCommand_eq, probeCommand_eq]
      rfl

end Sys2Proof.Machine
end
